-- ==== Sys2Proof/Word.lean ====
section
/-! DEFINITION. The widths of the block: codeword, position, command word, status word, payload
(spec/00_scope.md R5, R6, R8). A `Bit` of the spec is a `Bool` here: 1 is `true`. -/

namespace Sys2Proof

/-- `CMD_WIDTH` (R6): the width of a command word. -/
abbrev CMD_WIDTH : Nat := 18

/-- `ST_WIDTH` (R6): the width of the status register. -/
abbrev ST_WIDTH : Nat := 11

/-- `Word16` (R8): an unsigned integer in [0, 65536), bit 0 least significant (R7). -/
abbrev Word16 := BitVec 16

/-- `Pos4` (R8): a bit position or a syndrome, an unsigned integer in [0, 16). -/
abbrev Pos4 := BitVec 4

/-- A command word, `cmd[17:0]` (spec/30_encoding.md R50). -/
abbrev CmdWord := BitVec CMD_WIDTH

/-- The contents of the status register, `ST[10:0]` (spec/10_state.md R27). -/
abbrev StatusWord := BitVec ST_WIDTH

/-- An 11-bit payload `d`, in [0, 2048) (spec/43_load_and_payload.md R101). -/
abbrev Payload := BitVec 11

end Sys2Proof
end

