-- ==== Sys2Proof/Config.lean ====
section
/-! DEFINITION. What is fixed for the block: the constants of the decided layer
(spec/00_scope.md R6). The spec leaves no value of the block open, so there is no free value here. -/

namespace Sys2Proof

/-- `RESET_W` (R6, R31): the value of `W` after reset. -/
def RESET_W : Word16 := 0x0000#16

/-- `RESET_ST` (R6, R31): the value of `ST` after reset. -/
def RESET_ST : StatusWord := 0x000#11

end Sys2Proof
end

