-- ==== Sys2Proof/Machine/State.lean ====
section
/-! DEFINITION. The state of the block, the reasons a step could stop (none of the block's own), and
the state after reset. -/

namespace Sys2Proof.Machine

/-- What the host drives on the input ports at one step (spec/10_state.md R32). -/
structure PortIn where
  /-- `rst`: reset request. -/
  rst : Bool
  /-- `cmd_valid`: the host presents a command at this step. -/
  cmdValid : Bool
  /-- `cmd`: the command word. -/
  cmd : CmdWord
  deriving DecidableEq, Repr

/-- The state: the two registers of the block, which are all of its state (spec/10_state.md R26, R27,
R29), and the host's coming port samples, which are the model's own field (log entry 1). -/
structure State where
  /-- The codeword register `W` (R26). -/
  w : Word16
  /-- The status register `ST` (R27). -/
  st : StatusWord
  /-- What the host will drive on the input ports, one sample per step, the next step's first. -/
  inputs : List PortIn
  deriving DecidableEq, Repr

/-- The block raises no exception and has no fault (spec/60_exceptions.md R110): no constructor. -/
inductive Fault where
  deriving DecidableEq, Repr

/-- Refusals. The block refuses nothing (R110); the one constructor is the host's fixed name for a
command without a meaning, and no arm of `exec` answers it. -/
inductive Refusal where
  /-- Raised by an arm of `exec` for a command that has no meaning yet; raised by none here. Safe: the
  model would stop where the hardware goes on. -/
  | notModelled (mnemonic : String)
  deriving DecidableEq, Repr

/-- The machine right after reset (R31): both registers at the spec's values, and no port sample
placed (log entries 1 and 3). -/
def State.reset : State := { w := RESET_W, st := RESET_ST, inputs := [] }

end Sys2Proof.Machine
end

