-- ==== Sys2Proof/Machine/Ops.lean ====
section
/-! DEFINITION. The primitives of spec/00_scope.md R9 and the masks of R11, the valid codeword of
spec/10_state.md R25, and the one reader and writer of each register. The block has no memory
(spec/20_memory.md R40) and takes no exception (spec/60_exceptions.md R110, R115), so there is no
operation for either. -/

namespace Sys2Proof.Machine

/-! ### Bits of a word (R9) -/

/-- `v[p]`. -/
def getBit (w : Word16) (p : Pos4) : Bool := w.getLsbD p.toNat

/-- `1 << p`: the word with only bit `p` set. -/
def oneAt (p : Pos4) : Word16 := 1#16 <<< p.toNat

/-- `setBit(w, p, b)`: `w` with bit `p` replaced by `b`. -/
def setBit (w : Word16) (p : Pos4) (b : Bool) : Word16 :=
  (w &&& ~~~oneAt p) ||| ((BitVec.ofBool b).setWidth 16 <<< p.toNat)

/-- `flipBit(w, p)`: `w` with bit `p` inverted. -/
def flipBit (w : Word16) (p : Pos4) : Word16 := w ^^^ oneAt p

/-- `xorbits(v)`: the XOR of all bits of `v`. -/
def xorbits {n : Nat} (v : BitVec n) : Bool :=
  (List.range n).foldl (fun acc p => acc ^^ v.getLsbD p) false

/-- The number of set bits of a word: the count that "flipped positions" of an error pattern and
"set bits" of a codeword refer to (spec/40_encoder.md R70, spec/41_syndrome.md R79). -/
def weight (w : Word16) : Nat := (List.range 16).countP (fun p => w.getLsbD p)

/-! ### Masks (R11) -/

/-- Positions 1, 3, 5, 7, 9, 11, 13, 15. -/
def COVER1 : Word16 := 0xAAAA#16
/-- Positions 2, 3, 6, 7, 10, 11, 14, 15. -/
def COVER2 : Word16 := 0xCCCC#16
/-- Positions 4, 5, 6, 7, 12, 13, 14, 15. -/
def COVER4 : Word16 := 0xF0F0#16
/-- Positions 8 to 15. -/
def COVER8 : Word16 := 0xFF00#16
/-- Positions 0, 1, 2, 4, 8. -/
def CHECK_MASK : Word16 := 0x0117#16
/-- Positions 1, 2, 4, 8. -/
def CONTROL_MASK : Word16 := 0x0116#16
/-- Positions 3, 5, 6, 7, 9 to 15. -/
def PAYLOAD_MASK : Word16 := 0xFEE8#16

/-- R25: the five equations of a valid codeword. -/
def validCodeword (w : Word16) : Bool :=
  getBit w 1#4 == xorbits (w &&& COVER1 &&& ~~~oneAt 1#4) &&
  getBit w 2#4 == xorbits (w &&& COVER2 &&& ~~~oneAt 2#4) &&
  getBit w 4#4 == xorbits (w &&& COVER4 &&& ~~~oneAt 4#4) &&
  getBit w 8#4 == xorbits (w &&& COVER8 &&& ~~~oneAt 8#4) &&
  getBit w 0#4 == xorbits (w.extractLsb 15 1)

/-! ### The registers -/

/-- `W` read (R26). -/
def State.readW (s : State) : Word16 := s.w

/-- `ST` read (R27). -/
def State.readST (s : State) : StatusWord := s.st

/-- `W <- v` (R26: every 16-bit value is legal). -/
def State.writeW (s : State) (v : Word16) : State := { s with w := v }

/-- `ST <- v` (R27). -/
def State.writeST (s : State) (v : StatusWord) : State := { s with st := v }

/-- The reset event on the registers (spec/70_reset_and_hazards.md R125). -/
def State.resetRegs (s : State) : State := (s.writeW RESET_W).writeST RESET_ST

end Sys2Proof.Machine
end

