-- ==== Sys2Proof/Machine/Operands.lean ====
section
/-! DEFINITION. The two operand forms (spec/30_encoding.md R52): LOAD's immediate, and the register
`W` of the other three commands. -/

namespace Sys2Proof.Machine

/-- LOAD's operand: `imm` used as it stands, no extension, shift or scaling (R52). -/
def immOperand (imm : Word16) : Word16 := imm

/-- The operand of ENCODE, LOCATE and CORRECT: the register `W` before the step (R52). -/
def wOperand (s : State) : Word16 := s.readW

end Sys2Proof.Machine
end

