-- ==== Sys2Proof/Machine/Encoder.lean ====
section
/-! DEFINITION. The encoder unit ENC and the command ENCODE (spec/40_encoder.md). -/

namespace Sys2Proof.Machine

/-- Step 1, clear (R60). -/
def encodeStep1 (w0 : Word16) : Word16 := w0 &&& ~~~CHECK_MASK
/-- Step 2, control bit 1 (R61). -/
def encodeStep2 (w1 : Word16) : Word16 := setBit w1 1#4 (xorbits (w1 &&& COVER1))
/-- Step 3, control bit 2 (R62). -/
def encodeStep3 (w2 : Word16) : Word16 := setBit w2 2#4 (xorbits (w2 &&& COVER2))
/-- Step 4, control bit 4 (R63). -/
def encodeStep4 (w3 : Word16) : Word16 := setBit w3 4#4 (xorbits (w3 &&& COVER4))
/-- Step 5, control bit 8 (R64). -/
def encodeStep5 (w4 : Word16) : Word16 := setBit w4 8#4 (xorbits (w4 &&& COVER8))
/-- Step 6, overall parity (R65). -/
def encodeStep6 (w5 : Word16) : Word16 := setBit w5 0#4 (xorbits w5)

/-- `encode(w0) = w6` (R66). -/
def encode (w0 : Word16) : Word16 :=
  encodeStep6 (encodeStep5 (encodeStep4 (encodeStep3 (encodeStep2 (encodeStep1 w0)))))

/-- The closed form of R67, what a hardware encoder computes. -/
def encodeClosed (w0 : Word16) : Word16 :=
  let bitAt (b : Bool) (p : Nat) : Word16 := (BitVec.ofBool b).setWidth 16 <<< p
  let u := w0 &&& PAYLOAD_MASK
  let c1 := xorbits (u &&& COVER1)
  let c2 := xorbits (u &&& COVER2)
  let c4 := xorbits (u &&& COVER4)
  let c8 := xorbits (u &&& COVER8)
  let p0 := xorbits u ^^ c1 ^^ c2 ^^ c4 ^^ c8
  u ||| bitAt c8 8 ||| bitAt c4 4 ||| bitAt c2 2 ||| bitAt c1 1 ||| bitAt p0 0

/-- ENCODE: `W <- encode(W)`; `imm` is ignored and `ST` is left unchanged (R71, R52). -/
def execEncode (_imm : Word16) (s : State) : Host.Outcome State Fault Refusal :=
  .next (s.writeW (encode (wOperand s)))

end Sys2Proof.Machine
end

