-- ==== Sys2Proof/Machine/Load.lean ====
section
/-! DEFINITION. The command LOAD (spec/43_load_and_payload.md R100). -/

namespace Sys2Proof.Machine

/-- LOAD: `W <- imm`; `ST` is left unchanged (R100). -/
def execLoad (imm : Word16) (s : State) : Host.Outcome State Fault Refusal :=
  .next (s.writeW (immOperand imm))

end Sys2Proof.Machine
end

