-- ==== Sys2Proof/Machine/Flags.lean ====
section
/-! DEFINITION. The status word: LocationResult and its codes (spec/10_state.md R28), the packing of
the four fields (R27, spec/42_locate_correct.md R94), and the fields read back. -/

namespace Sys2Proof.Machine

/-- The result of `locateError` (R28). -/
inductive LocationResult where
  | noError
  | bitPosition (p : Pos4)
  | multipleErrors
  deriving DecidableEq, Repr

/-- The code of the class, `ST.res` (R28). -/
def resCode : LocationResult → BitVec 2
  | .noError => 0b00#2
  | .bitPosition _ => 0b01#2
  | .multipleErrors => 0b10#2

/-- The code of the position, `ST.pos`: `p` for `BitPosition(p)`, else 0 (R28). -/
def posCode : LocationResult → Pos4
  | .noError => 0#4
  | .bitPosition p => p
  | .multipleErrors => 0#4

/-- The status word with its four fields, `perr` in the high bit (R27, R94). -/
def packStatus (perr : Bool) (syn pos : Pos4) (res : BitVec 2) : StatusWord :=
  BitVec.ofBool perr ++ syn ++ pos ++ res

/-- `ST.res`, bits 1:0 (R27). -/
def stRes (v : StatusWord) : BitVec 2 := v.extractLsb 1 0
/-- `ST.pos`, bits 5:2 (R27). -/
def stPos (v : StatusWord) : Pos4 := v.extractLsb 5 2
/-- `ST.syn`, bits 9:6 (R27). -/
def stSyn (v : StatusWord) : Pos4 := v.extractLsb 9 6
/-- `ST.perr`, bit 10 (R27). -/
def stPerr (v : StatusWord) : Bool := v.getLsbD 10

end Sys2Proof.Machine
end

