-- ==== Sys2Proof/Machine/Locator.lean ====
section
/-! DEFINITION. `parityMismatch` and `syndrome` (spec/41_syndrome.md), `locateError`, `correct` and
`status` (spec/42_locate_correct.md), and the commands LOCATE and CORRECT. -/

namespace Sys2Proof.Machine

/-- `parityMismatch(w)`: the XOR of all 16 bits, bit 0 included (R75). This is the reading that
spec/90_conflicts.md C1 settles, not the literal one. -/
def parityMismatch (w : Word16) : Bool := xorbits w

/-- `syndrome(w)`: the XOR of the indices of all set bits, the loop of R76. -/
def syndrome (w : Word16) : Pos4 :=
  (List.range 16).foldl (fun s p => if w.getLsbD p then s ^^^ BitVec.ofNat 4 p else s) 0b0000#4

/-- The decision from the syndrome `s` and the mismatch `m` (R86), the function that makes `res` and
`pos` depend on `syn` and `perr` alone (R27). -/
def locate (s : Pos4) (m : Bool) : LocationResult :=
  if s = 0#4 ∧ m = false then .noError
  else if m then .bitPosition s
  else .multipleErrors

/-- `locateError(w)` (R86). -/
def locateError (w : Word16) : LocationResult := locate (syndrome w) (parityMismatch w)

/-- `correct(w)` (R89). -/
def correct (w : Word16) : Word16 :=
  match locateError w with
  | .noError => w
  | .multipleErrors => w
  | .bitPosition p => flipBit w p

/-- `status(w)` (R94). -/
def status (w : Word16) : StatusWord :=
  packStatus (parityMismatch w) (syndrome w) (posCode (locateError w)) (resCode (locateError w))

/-- LOCATE: `ST <- status(W)`; `W` is not written (R95). -/
def execLocate (_imm : Word16) (s : State) : Host.Outcome State Fault Refusal :=
  .next (s.writeST (status (wOperand s)))

/-- CORRECT: `ST <- status(W); W <- correct(W)`, both from the value of `W` before the step (R96). -/
def execCorrect (_imm : Word16) (s : State) : Host.Outcome State Fault Refusal :=
  let old := wOperand s
  .next ((s.writeST (status old)).writeW (correct old))

end Sys2Proof.Machine
end

