-- ==== Sys2Proof/Syntax.lean ====
section
/-! DEFINITION. The commands of the block, one constructor per row of spec/opcode_table.json. -/

namespace Sys2Proof

/-- A command of format CMD18 (spec/30_encoding.md R50, R51). Every command word carries the 16 bits
`imm`; LOAD uses them, the other three ignore them (R52), and the constructors keep them so that an
`Instr` is exactly one command word (log entry 5). -/
inductive Instr where
  /-- LOAD: `W <- imm` (R100). -/
  | load (imm : Word16)
  /-- ENCODE: `W <- encode(W)` (R71); `imm` is ignored. -/
  | encode (imm : Word16)
  /-- LOCATE: `ST <- status(W)` (R95); `imm` is ignored. -/
  | locate (imm : Word16)
  /-- CORRECT: `ST <- status(W); W <- correct(W)` (R96); `imm` is ignored. -/
  | correct (imm : Word16)
  deriving DecidableEq, Repr

end Sys2Proof
end

