-- ==== Sys2Proof/Machine/Dispatch.lean ====
section
/-! DEFINITION. One arm per command (spec/30_encoding.md R51). -/

namespace Sys2Proof.Machine

/-- The meaning of a command. -/
def exec (i : Instr) (s : State) : Host.Outcome State Fault Refusal :=
  match i with
  | .load imm => Sys2Proof.Machine.execLoad imm s
  | .encode imm => Sys2Proof.Machine.execEncode imm s
  | .locate imm => Sys2Proof.Machine.execLocate imm s
  | .correct imm => Sys2Proof.Machine.execCorrect imm s

end Sys2Proof.Machine
end

