-- ==== Sys2Proof/WellFormed.lean ====
section
/-! DEFINITION. Checks on commands and command words: which terms the block takes (all of them,
spec/30_encoding.md R53), which are canonical (R53, R55), and which numbers fit the `cmd` port (R50). -/

namespace Sys2Proof

/-- R53: the block takes every command with every `imm`; the widths of the types leave nothing else
to check. -/
def Instr.wellFormed : Instr → Bool
  | .load _ => true
  | .encode _ => true
  | .locate _ => true
  | .correct _ => true

/-- R53, R55: a host that sends canonical words sets `imm` to 0 for ENCODE, LOCATE and CORRECT. The
block does not check this. -/
def Instr.canonical : Instr → Bool
  | .load _ => true
  | .encode imm => imm == 0#16
  | .locate imm => imm == 0#16
  | .correct imm => imm == 0#16

/-- R50: a number is a command word when it fits the 18 lines of the `cmd` port. -/
def fitsCmd (w : Nat) : Bool := decide (w < 2 ^ CMD_WIDTH)

end Sys2Proof
end

