-- ==== Sys2Proof/Decode.lean ====
section
/-! DEFINITION. The decoder, total on command words (spec/30_encoding.md R50, R51, R53), its form on
raw numbers, which rejects by name what does not fit the port, and the encoder. -/

namespace Sys2Proof

/-- The field `op`, `cmd[17:16]` (R50). -/
def opField (c : CmdWord) : BitVec 2 := c.extractLsb 17 16

/-- The field `imm`, `cmd[15:0]` (R50). -/
def immField (c : CmdWord) : Word16 := c.extractLsb 15 0

/-- The decoder (R51). It is total and never traps (R53). -/
def decodeCmd (c : CmdWord) : Instr :=
  if opField c = 0b00#2 then .load (immField c)
  else if opField c = 0b01#2 then .encode (immField c)
  else if opField c = 0b10#2 then .locate (immField c)
  else .correct (immField c)

/-- Why a number is no command word. -/
inductive DecodeError where
  /-- The number has a bit above bit 17, so it cannot stand on the 18-bit `cmd` port (R50; log entry 4). -/
  | widerThanCmdPort
  deriving DecidableEq, Repr

/-- The decoder on a number: it rejects, by name, what does not fit the `cmd` port. -/
def decodeNat (w : Nat) : Except DecodeError Instr :=
  if fitsCmd w then .ok (decodeCmd (BitVec.ofNat CMD_WIDTH w)) else .error .widerThanCmdPort

/-- The two bits of `op` that select a command (R51). -/
def opOf : Instr → BitVec 2
  | .load _ => 0b00#2
  | .encode _ => 0b01#2
  | .locate _ => 0b10#2
  | .correct _ => 0b11#2

/-- The 16 bits of `imm` a command carries (R52). -/
def immOf : Instr → Word16
  | .load imm => imm
  | .encode imm => imm
  | .locate imm => imm
  | .correct imm => imm

/-- The encoder: the command word `(op, imm)`, `op` in the high bits (R50). -/
def encodeCmd (i : Instr) : CmdWord := opOf i ++ immOf i

/-- The command a table row's word stands for: `w` read as `nbits` bits, every bit above them 0. -/
def decodeTableWord (nbits w : Nat) : Option Instr :=
  match decodeNat (w % 2 ^ nbits) with
  | .ok i => some i
  | .error _ => none

end Sys2Proof
end

