-- ==== Sys2Proof/Machine/Ports.lean ====
section
/-! DEFINITION. The ports of the block (spec/10_state.md R32, R33): what a sample of the inputs asks
for, the outputs, and how the host's coming samples are taken one per step. -/

namespace Sys2Proof.Machine

/-- What one sample of the input ports makes of the step. -/
inductive PortEvent where
  /-- `rst = 1`: a reset step; the command, if any, is dropped (R125). -/
  | reset
  /-- `rst = 0`, `cmd_valid = 1`: the command is executed (R50). -/
  | command (i : Instr)
  /-- `rst = 0`, `cmd_valid = 0`: nothing changes (R32). -/
  | idle
  deriving DecidableEq, Repr

/-- The kind of step a sample makes: `rst` has priority over `cmd_valid` (R114, R125), and `cmd` is
looked at only when it is accepted (R47). -/
def portEvent (p : PortIn) : PortEvent :=
  if p.rst then .reset
  else if p.cmdValid then .command (decodeCmd p.cmd)
  else .idle

/-- A sample in which the host does nothing (R121, idle). -/
def PortIn.idle : PortIn := { rst := false, cmdValid := false, cmd := 0#18 }

/-- A sample that presents a command word. -/
def PortIn.present (c : CmdWord) : PortIn := { rst := false, cmdValid := true, cmd := c }

/-- A reset sample with nothing presented. -/
def PortIn.resetRequest : PortIn := { rst := true, cmdValid := false, cmd := 0#18 }

/-- The sample on the ports at the next step. When the host has placed none, it idles (log entry 2). -/
def State.nextSample (s : State) : PortIn :=
  match s.inputs with
  | [] => .idle
  | p :: _ => p

/-- The state with the next step's sample taken off the host's coming samples. -/
def State.dropSample (s : State) : State := { s with inputs := s.inputs.tail }

/-- The state with a sample placed before all others, so that the very next step sees it. -/
def State.pushSample (s : State) (p : PortIn) : State := { s with inputs := p :: s.inputs }

/-- The output `dout` (R33). -/
def State.dout (s : State) : Word16 := s.readW

/-- The output `st` (R33). -/
def State.stOut (s : State) : StatusWord := s.readST

end Sys2Proof.Machine
end

