-- ==== Sys2Proof/Machine/Step.lean ====
section
/-! DEFINITION. One step: the block acts on one sample of its input ports (spec/10_state.md R32,
spec/30_encoding.md R50, spec/70_reset_and_hazards.md R125). -/

namespace Sys2Proof.Machine

/-- The block's step on a given sample of the ports. -/
def blockStep (p : PortIn) (s : State) : Host.Outcome State Fault Refusal :=
  match portEvent p with
  | .reset => .next s.resetRegs
  | .command i => exec i s
  | .idle => .next s

/-- One step of block and host together: the next sample is taken and the block acts on it. -/
def step (s : State) : Host.Outcome State Fault Refusal := blockStep s.nextSample s.dropSample

/-- `s` with a table row's word presented on the `cmd` port at the very next step (log entry 3). -/
def State.withFetchWord (s : State) (nbits w : Nat) : State :=
  s.pushSample (.present (BitVec.ofNat CMD_WIDTH (w % 2 ^ nbits)))

end Sys2Proof.Machine
end

