-- ==== Sys2Proof/Machine/HostSide.lean ====
section
/-! DEFINITION. The host-side functions whose semantics the spec keeps (spec/43_load_and_payload.md
R101 to R105), the pseudo-commands (spec/30_encoding.md R56) and the reading of `st` (R57). None of
them is a command of the block. -/

namespace Sys2Proof.Machine

/-- Why the host or its assembler refuses a request. No command is then issued and `W` keeps its value
(spec/60_exceptions.md R112). Raised by no step of the block. -/
inductive HostError where
  /-- A requested position outside [0, 16), with the offending position (R103, R104, R112). Safe: no
  word is produced. -/
  | invalidPosition (p : Nat)
  /-- A LOAD operand outside [0, 65535] (R55). Safe: no command is issued. -/
  | operandTooWide (v : Nat)
  /-- A LOADP payload of 2048 or more (R56). Safe: no command is issued. -/
  | payloadTooWide (d : Nat)
  deriving DecidableEq, Repr

/-- `pack(d)`: bit `i` of `d` goes to the `i`-th payload position, ascending (R101). -/
def pack (d : Payload) : Word16 :=
  ((d.extractLsb 0 0).setWidth 16 <<< 3) ||| ((d.extractLsb 3 1).setWidth 16 <<< 5) |||
  ((d.extractLsb 10 4).setWidth 16 <<< 9)

/-- `unpack(w) = { w[15:9], w[7:5], w[3] }` (R102). -/
def unpack (w : Word16) : Payload := w.extractLsb 15 9 ++ w.extractLsb 7 5 ++ w.extractLsb 3 3

/-- A requested position, checked at the construction boundary (R103, R104, R112). -/
def checkedPosition (p : Nat) : Except HostError Pos4 :=
  if p < 16 then .ok (BitVec.ofNat 4 p) else .error (.invalidPosition p)

/-- `singleton(p)`: a hard failure for `p >= 16`, no word produced (R104). -/
def singletonWord (p : Nat) : Except HostError Word16 :=
  match checkedPosition p with
  | .ok q => .ok (oneAt q)
  | .error e => .error e

/-- The bit flip at a position the host asks for (R103). -/
def flipAt (w : Word16) (p : Nat) : Except HostError Word16 :=
  match checkedPosition p with
  | .ok q => .ok (flipBit w q)
  | .error e => .error e

/-- `injectError(w)`: one bit flipped, its position a free input of the host, here the argument (R105;
log entry 8). -/
def injectError (w : Word16) (p : Pos4) : Word16 := flipBit w p

/-- `randomPayload()`: all 16 bits a free input of the host, here the argument (R105; log entry 8). -/
def randomPayload (draw : Word16) : Word16 := draw

/-- What an assembler line asks for: the four commands (R55) and the three pseudo-commands (R56),
their operands still unchecked numbers. -/
inductive AsmCommand where
  | load (v : Nat)
  | encode
  | locate
  | correct
  /-- `FLIP p` = `LOAD flipBit(dout, p)`. -/
  | flip (p : Nat)
  /-- `LOADP d` = `LOAD pack(d)`. -/
  | loadp (d : Nat)
  /-- `LOADS p` = `LOAD singleton(p)`. -/
  | loads (p : Nat)
  deriving DecidableEq, Repr

/-- The operand checks of R55 and R56. -/
def AsmCommand.wellFormed : AsmCommand → Bool
  | .load v => decide (v < 65536)
  | .encode => true
  | .locate => true
  | .correct => true
  | .flip p => decide (p < 16)
  | .loadp d => decide (d < 2048)
  | .loads p => decide (p < 16)

/-- The command a source line becomes, given the `dout` read just before (R55, R56): ENCODE, LOCATE
and CORRECT assemble with `imm = 0`. -/
def assemble (dout : Word16) : AsmCommand → Except HostError Instr
  | .load v => if v < 65536 then .ok (.load (BitVec.ofNat 16 v)) else .error (.operandTooWide v)
  | .encode => .ok (.encode 0#16)
  | .locate => .ok (.locate 0#16)
  | .correct => .ok (.correct 0#16)
  | .flip p =>
    match flipAt dout p with
    | .ok w => .ok (.load w)
    | .error e => .error e
  | .loadp d =>
    if d < 2048 then .ok (.load (pack (BitVec.ofNat 11 d))) else .error (.payloadTooWide d)
  | .loads p =>
    match singletonWord p with
    | .ok w => .ok (.load w)
    | .error e => .error e

/-- The LocationResult a host reads from `st` (R28, R57); the code 0b11 stands for none. -/
def readLocation (v : StatusWord) : Option LocationResult :=
  if stRes v = 0b00#2 then some .noError
  else if stRes v = 0b01#2 then some (.bitPosition (stPos v))
  else if stRes v = 0b10#2 then some .multipleErrors
  else none

end Sys2Proof.Machine
end

