-- ==== Sys2Proof/Machine/Assembler.lean ====
section
/-! DEFINITION. The assembler's text form (spec/30_encoding.md R55, R56): one command per line, upper
case mnemonics, a comment from `;` to the end of the line. It stands in the host, not in the block. -/

namespace Sys2Proof.Machine

/-- Why a line is no command. -/
inductive AsmError where
  /-- The line's tokens are none of the forms of R55 and R56; that such a line is refused is the model's
  choice (log entry 14, DESIGN CHOICE). Safe: no command is issued. -/
  | unreadable
  /-- The line reads, and its operand is refused (R55, R56). Safe: no command is issued. -/
  | request (e : HostError)
  deriving DecidableEq, Repr

/-- White space between tokens (log entry 6). -/
def isBlank (c : Char) : Bool := c == ' ' || c == '\t' || c == '\r'

/-- The tokens of a line; `cur` is the token being read, reversed. -/
def tokens : List Char → List Char → List (List Char)
  | [], cur => if cur.isEmpty then [] else [cur.reverse]
  | c :: cs, cur =>
    if isBlank c then
      if cur.isEmpty then tokens cs [] else cur.reverse :: tokens cs []
    else tokens cs (c :: cur)

/-- The value of a digit in a base of at most 16; hex digits of either case (log entry 7). -/
def digitValue (base : Nat) (c : Char) : Option Nat :=
  let n := c.toNat
  let v :=
    if 48 ≤ n ∧ n ≤ 57 then n - 48
    else if 65 ≤ n ∧ n ≤ 70 then n - 55
    else if 97 ≤ n ∧ n ≤ 102 then n - 87
    else 16
  if v < base then some v else none

/-- The value of a run of digits, most significant first, read onto `acc`. -/
def digitsValue (base : Nat) : List Char → Nat → Option Nat
  | [], acc => some acc
  | c :: cs, acc =>
    match digitValue base c with
    | some v => digitsValue base cs (acc * base + v)
    | none => none

/-- A run of at least one and at most `most` digits; a longer run is no number, so its line is outside
the forms of R55 (log entry 14). -/
def digitRun (base most : Nat) (ds : List Char) : Option Nat :=
  if ds.isEmpty || decide (most < ds.length) then none else digitsValue base ds 0

/-- A decimal number of any length; its range is checked when it is assembled. -/
def decimal (ds : List Char) : Option Nat := if ds.isEmpty then none else digitsValue 10 ds 0

/-- A number: `0x` and 1 to 4 hex digits, `0b` and 1 to 16 binary digits, or a decimal number (R55). -/
def number : List Char → Option Nat
  | '0' :: 'x' :: ds => digitRun 16 4 ds
  | '0' :: 'b' :: ds => digitRun 2 16 ds
  | ds => decimal ds

/-- One mnemonic and one operand. LOAD and LOADP take a number, FLIP and LOADS a decimal position (R55,
R56; log entry 7). -/
def readOperandForm (m operand : List Char) : Option AsmCommand :=
  if m = "LOAD".toList then (number operand).map .load
  else if m = "LOADP".toList then (number operand).map .loadp
  else if m = "FLIP".toList then (decimal operand).map .flip
  else if m = "LOADS".toList then (decimal operand).map .loads
  else none

/-- A mnemonic alone. -/
def readPlainForm (m : List Char) : Option AsmCommand :=
  if m = "ENCODE".toList then some .encode
  else if m = "LOCATE".toList then some .locate
  else if m = "CORRECT".toList then some .correct
  else none

/-- A line: nothing, a command of the forms of R55 and R56, or an error. R55 gives the forms and does not
say what becomes of any other line (a lower case mnemonic, ENCODE with an operand, LOAD with five hex
digits): it is refused as `unreadable`, the model's choice (log entry 14, DESIGN CHOICE). -/
def readLine (line : List Char) : Except AsmError (Option AsmCommand) :=
  match tokens (line.takeWhile (· != ';')) [] with
  | [] => .ok none
  | [m] =>
    match readPlainForm m with
    | some c => .ok (some c)
    | none => .error .unreadable
  | [m, operand] =>
    match readOperandForm m operand with
    | some c => .ok (some c)
    | none => .error .unreadable
  | _ => .error .unreadable

/-- The command word a line assembles to, given the `dout` read just before; none for a line without a
command. -/
def assembleLine (dout : Word16) (line : List Char) : Except AsmError (Option CmdWord) :=
  match readLine line with
  | .error e => .error e
  | .ok none => .ok none
  | .ok (some c) =>
    match assemble dout c with
    | .ok i => .ok (some (encodeCmd i))
    | .error e => .error (.request e)

end Sys2Proof.Machine
end

