-- ==== Sys2Proof/Machine/Driver.lean ====
section
/-! DEFINITION. The host driving the block (spec/60_exceptions.md R121): its actions one at a time,
with the outputs read between steps, the driver's sequence (spec/43_load_and_payload.md R106), and a
program as a list of commands (spec/70_reset_and_hazards.md R134). -/

namespace Sys2Proof.Machine

/-- One thing the host does (R121). -/
inductive HostAction where
  /-- Present a command or pseudo-command. -/
  | issue (c : AsmCommand)
  /-- Let a step pass with nothing presented. -/
  | idle
  /-- Request a reset. -/
  | reset
  deriving DecidableEq, Repr

/-- Why a session of the host ends early. -/
inductive HostStop where
  /-- The host refused its own request (R112): no command was issued and the block did not step. Safe. -/
  | request (e : HostError)
  /-- The block stopped; it never does (R110). Safe. -/
  | blockStopped
  deriving DecidableEq, Repr

/-- The port sample of an action, with `dout` read just before (R56). -/
def sampleOf (s : State) : HostAction → Except HostError PortIn
  | .issue c =>
    match assemble s.dout c with
    | .ok i => .ok (.present (encodeCmd i))
    | .error e => .error e
  | .idle => .ok .idle
  | .reset => .ok .resetRequest

/-- One action of the host and the block's step on it. -/
def act (a : HostAction) (s : State) : Except HostStop State :=
  match sampleOf s a with
  | .error e => .error (.request e)
  | .ok p =>
    match step (s.pushSample p) with
    | .next t => .ok t
    | .fault _ => .error .blockStopped
    | .refused _ => .error .blockStopped

/-- A session: the actions in order, each step complete before the next action (R12, R44). -/
def session : List HostAction → State → Except HostStop State
  | [], s => .ok s
  | a :: as, s =>
    match act a s with
    | .ok t => session as t
    | .error e => .error e

/-- What the host observes: the two outputs (R33). -/
def observe (s : State) : Word16 × StatusWord := (s.dout, s.stOut)

/-- A host that chooses each action from the outputs observed so far, latest first (R134): `n` of its
actions. -/
def policyRun (host : List (Word16 × StatusWord) → HostAction) :
    Nat → List (Word16 × StatusWord) → State → Except HostStop State
  | 0, _, s => .ok s
  | n + 1, seen, s =>
    match act (host (observe s :: seen)) s with
    | .ok t => policyRun host n (observe s :: seen) t
    | .error e => .error e

/-- The first half of the driver's sequence: a word loaded and encoded (R106). -/
def sendActions (v : Word16) : List HostAction := [.issue (.load v.toNat), .issue .encode]

/-- The second half: optionally one bit flipped, then LOCATE and CORRECT (R106). -/
def receiveActions (p : Option Pos4) : List HostAction :=
  match p with
  | none => [.issue .locate, .issue .correct]
  | some q => [.issue (.flip q.toNat), .issue .locate, .issue .correct]

/-- The driver's sequence (R106); `v` and `p` are the host's free draws (R105). -/
def driverActions (v : Word16) (p : Option Pos4) : List HostAction :=
  sendActions v ++ receiveActions p

/-- The state with a list of commands as the host's coming samples, one per step (R134). -/
def State.withCommands (s : State) (cs : List Instr) : State :=
  { s with inputs := cs.map (fun i => PortIn.present (encodeCmd i)) }

/-- A program from reset: a finite list of commands issued in order (R134; log entry 3). -/
def programFromReset (cs : List Instr) : State := State.reset.withCommands cs

end Sys2Proof.Machine
end

