-- ==== Sys2Proof/Machine/Units.lean ====
section
/-! DEFINITION. The three combinational units with their ports (ENC spec/40_encoder.md R71, SYN
spec/41_syndrome.md R81, ELC spec/42_locate_correct.md R97) and their wiring in the block, where every
word input is tied to `W`. -/

namespace Sys2Proof.Machine

/-- The outputs of SYN: `syn_out[3:0]` and `perr_out` (R81). -/
structure SynOut where
  synOut : Pos4
  perrOut : Bool
  deriving DecidableEq, Repr

/-- The outputs of ELC: `elc_res[1:0]`, `elc_pos[3:0]` and `elc_out[15:0]` (R97). -/
structure ElcOut where
  elcRes : BitVec 2
  elcPos : Pos4
  elcOut : Word16
  deriving DecidableEq, Repr

/-- ENC: `enc_out = encode(enc_in)` (R71). -/
def encUnit (encIn : Word16) : Word16 := encode encIn

/-- SYN as hardware computes it: the four XOR trees of R77 and the fifth of R75, on the ports of R81. -/
def synUnit (synIn : Word16) : SynOut where
  synOut :=
    BitVec.ofBool (xorbits (synIn &&& COVER8)) ++ BitVec.ofBool (xorbits (synIn &&& COVER4)) ++
    BitVec.ofBool (xorbits (synIn &&& COVER2)) ++ BitVec.ofBool (xorbits (synIn &&& COVER1))
  perrOut := xorbits synIn

/-- ELC (R97): the LocationResult of `elc_syn` and `elc_perr` in its codes, and `elc_in` with bit
`elc_syn` inverted when `elc_perr` is 1. -/
def elcUnit (elcIn : Word16) (elcSyn : Pos4) (elcPerr : Bool) : ElcOut where
  elcRes := resCode (locate elcSyn elcPerr)
  elcPos := posCode (locate elcSyn elcPerr)
  elcOut := if elcPerr then elcIn ^^^ oneAt elcSyn else elcIn

/-- What the units show when their word inputs are tied to `W`, SYN feeding ELC (R81, R97). -/
def elcOfW (s : State) : ElcOut :=
  elcUnit s.readW (synUnit s.readW).synOut (synUnit s.readW).perrOut

/-- The value the units give for `ST`: `perr` and `syn` from SYN, `pos` and `res` from ELC (R27, R81,
R97). -/
def unitStatus (s : State) : StatusWord :=
  packStatus (synUnit s.readW).perrOut (synUnit s.readW).synOut (elcOfW s).elcPos (elcOfW s).elcRes

end Sys2Proof.Machine
end

