-- ==== Sys2Proof/Safety.lean ====
section
/-! DEFINITION. What the claims speak of: a state whose step completes, a status word the block can
produce, and a status that describes the present word. -/

namespace Sys2Proof

/-- The step of this state answers a next state (spec/60_exceptions.md R110). -/
def Completes (s : Machine.State) : Prop := ∃ t, Machine.step s = .next t

/-- `res` and `pos` are the function of `syn` and `perr` that R86 gives (spec/10_state.md R27): of the
2048 patterns of `ST`, these are the 32 that can be observed. -/
def StatusLegal (v : StatusWord) : Prop :=
  Machine.stRes v = Machine.resCode (Machine.locate (Machine.stSyn v) (Machine.stPerr v)) ∧
  Machine.stPos v = Machine.posCode (Machine.locate (Machine.stSyn v) (Machine.stPerr v))

/-- The invariant every step keeps: `ST` is one of the observable patterns (R27). -/
def Inv (s : Machine.State) : Prop := StatusLegal s.st

/-- `ST` describes the present `W`; where this fails `ST` is stale (spec/70_reset_and_hazards.md R127,
R128). -/
def StatusCurrent (s : Machine.State) : Prop := s.st = Machine.status s.w

/-- The word `w` is the valid codeword `c` with exactly `k` positions flipped: the premise a claim of
recovery or detection carries (spec/70_reset_and_hazards.md R131). -/
def ReceivedWithFlips (c w : Word16) (k : Nat) : Prop :=
  Machine.validCodeword c = true ∧ Machine.weight (c ^^^ w) = k

end Sys2Proof
end

