-- ==== Sys2Proof/Certificates/Slice0/Obligations.lean ====
section
/-! DEFINITION. The statements for the provers. Each docstring names the rule of spec/ it formalises,
or, where the spec marks the sentence as its own inference or the model chose, says so. -/

open Sys2Proof Sys2Proof.Machine

/-! ### Reset, ports, steps -/

/-- R31. Every register after reset, field by field; the reset state is the one LOAD 0x0000; LOCATE
leaves. -/
def Obligations.ResetValues : Prop :=
  State.reset.w = 0x0000#16 ∧ State.reset.st = 0x000#11 ∧
  stRes State.reset.st = 0b00#2 ∧ stPos State.reset.st = 0b0000#4 ∧
  stSyn State.reset.st = 0b0000#4 ∧ stPerr State.reset.st = false ∧
  encode 0x0000#16 = 0x0000#16 ∧ locateError 0x0000#16 = .noError ∧
  syndrome 0x0000#16 = 0#4 ∧ parityMismatch 0x0000#16 = false ∧
  State.reset.st = status State.reset.w ∧
  ∀ (imm : Word16) (s : State), ∃ t u : State,
    exec (.load 0x0000#16) s = .next t ∧ exec (.locate imm) t = .next u ∧
    u.w = State.reset.w ∧ u.st = State.reset.st

/-- R125. A reset step, whatever `cmd_valid` and `cmd` are; and besides commands it is the only way to
change the registers. -/
def Obligations.ResetStepDropsTheCommand : Prop :=
  (∀ (p : PortIn) (s : State), p.rst = true →
    blockStep p s = .next { s with w := 0x0000#16, st := 0x000#11 }) ∧
  (∀ (p : PortIn) (s t : State), blockStep p s = .next t → (t.w ≠ s.w ∨ t.st ≠ s.st) →
    p.rst = true ∨ p.cmdValid = true)

/-- 10_state.md section 4: at a step with `rst = 0` and `cmd_valid = 0` nothing changes. The second
clause is the model's choice (log entry 2): a host that has placed no sample idles. -/
def Obligations.IdleStepChangesNothing : Prop :=
  (∀ (c : CmdWord) (s : State),
    blockStep { rst := false, cmdValid := false, cmd := c } s = .next s) ∧
  (∀ s : State, s.inputs = [] → step s = .next s)

/-- A step runs the decoded command. That a step takes the first of the host's coming samples is the
model's choice (log entry 1), and so is the place of a table row's word (log entry 3). -/
def Obligations.StepRunsTheDecodedCommand : Prop :=
  (∀ (s : State) (c : CmdWord) (rest : List PortIn),
    s.inputs = { rst := false, cmdValid := true, cmd := c } :: rest →
    step s = exec (decodeCmd c) { s with inputs := rest }) ∧
  (∀ (s : State) (nbits w : Nat) (i : Instr), decodeTableWord nbits w = some i →
    step (s.withFetchWord nbits w) = exec i s)

/-- The samples the host has placed are taken one per step, in order, whatever the step does. The list
of samples is the model's choice (log entry 1). -/
def Obligations.EveryStepTakesOneSample : Prop :=
  ∀ s : State, ∃ t : State, step s = .next t ∧ t.inputs = s.inputs.tail

/-- R110. One outcome only, the next state: for every command, every sample of the ports, every step. -/
def Obligations.EveryStepCompletes : Prop :=
  (∀ (i : Instr) (s : State), ∃ t : State, exec i s = .next t) ∧
  (∀ (p : PortIn) (s : State), ∃ t : State, blockStep p s = .next t) ∧
  (∀ s : State, Completes s)

/-- R33. The outputs are the registers, before and after every step. -/
def Obligations.OutputsAreTheRegisters : Prop :=
  (∀ s : State, s.dout = s.w ∧ s.stOut = s.st) ∧
  (∀ (imm : Word16) (s : State), ∃ t : State, exec (.encode imm) s = .next t ∧ t.dout = encode s.dout) ∧
  (∀ (imm : Word16) (s : State), ∃ t : State, exec (.locate imm) s = .next t ∧ t.stOut = status s.dout) ∧
  (∀ (imm : Word16) (s : State), ∃ t : State, exec (.correct imm) s = .next t ∧
    t.dout = correct s.dout ∧ t.stOut = status s.dout)

/-! ### Encoding of commands -/

/-- 30_encoding.md sections 1 to 3. Decode and encode agree, in both directions: no bit of a command
word is dropped, and every one of the 2^18 words is exactly one command. The second and third clauses
rest on the model's choice that every constructor keeps its `imm`, also where the command ignores it
(log entry 5, DESIGN CHOICE). -/
def Obligations.DecodeEncodeAgree : Prop :=
  (∀ i : Instr, decodeCmd (encodeCmd i) = i) ∧ (∀ c : CmdWord, encodeCmd (decodeCmd c) = c) ∧
  (∀ c : CmdWord, ∃! i : Instr, encodeCmd i = c)

/-- 30_encoding.md section 1. `op` selects the command, given as field and as match and mask, and the
step applies the function of the table: these clauses are R51's. That a decoded ENCODE, LOCATE or
CORRECT keeps the word's `imm`, which R51 does not say, is the model's choice (log entry 5, DESIGN
CHOICE). -/
def Obligations.OpSelectsTheCommand : Prop :=
  (∀ c : CmdWord,
    (c &&& 0x30000#18 = 0x00000#18 ↔ c.extractLsb 17 16 = 0b00#2) ∧
    (c &&& 0x30000#18 = 0x10000#18 ↔ c.extractLsb 17 16 = 0b01#2) ∧
    (c &&& 0x30000#18 = 0x20000#18 ↔ c.extractLsb 17 16 = 0b10#2) ∧
    (c &&& 0x30000#18 = 0x30000#18 ↔ c.extractLsb 17 16 = 0b11#2)) ∧
  ∀ (c : CmdWord) (s : State),
    (c &&& 0x30000#18 = 0x00000#18 → decodeCmd c = .load (c.setWidth 16) ∧
      blockStep (.present c) s = .next { s with w := c.setWidth 16 }) ∧
    (c &&& 0x30000#18 = 0x10000#18 → decodeCmd c = .encode (c.setWidth 16) ∧
      blockStep (.present c) s = .next { s with w := encode s.w }) ∧
    (c &&& 0x30000#18 = 0x20000#18 → decodeCmd c = .locate (c.setWidth 16) ∧
      blockStep (.present c) s = .next { s with st := status s.w }) ∧
    (c &&& 0x30000#18 = 0x30000#18 → decodeCmd c = .correct (c.setWidth 16) ∧
      blockStep (.present c) s = .next { s with w := correct s.w, st := status s.w })

/-- Words written out from the encoding decode to the commands they stand for (95_test_vectors.md V10).
That a decoded ENCODE, LOCATE or CORRECT keeps the word's `imm` is the model's choice (log entry 5,
DESIGN CHOICE). -/
def Obligations.SampleWordsDecode : Prop :=
  decodeCmd 0b000000101010101010#18 = .load 0x0AAA#16 ∧
  decodeCmd 0b001111111111111111#18 = .load 0xFFFF#16 ∧
  decodeCmd 0b010000000000000000#18 = .encode 0x0000#16 ∧
  decodeCmd 0b011011111011101111#18 = .encode 0xBEEF#16 ∧
  decodeCmd 0b101111111111111111#18 = .locate 0xFFFF#16 ∧
  decodeCmd 0b110001001000110100#18 = .correct 0x1234#16

/-- R52. LOAD uses `imm` as it stands; the other three accept every `imm` and ignore it. -/
def Obligations.OnlyLoadUsesImm : Prop :=
  (∀ (v : Word16) (s : State), ∃ t : State, exec (.load v) s = .next t ∧ t.w = v) ∧
  ∀ (a b : Word16) (s : State),
    exec (.encode a) s = exec (.encode b) s ∧ exec (.locate a) s = exec (.locate b) s ∧
    exec (.correct a) s = exec (.correct b) s

/-! ### The four commands -/

/-- R100. LOAD. -/
def Obligations.LoadReplacesW : Prop :=
  ∀ (v : Word16) (s : State),
    encodeCmd (.load v) = 0x00000#18 ||| v.setWidth 18 ∧
    exec (.load v) s = .next { s with w := v } ∧
    exec (.load s.w) s = .next s ∧
    encodeCmd (.load 0x0AAA#16) = 0x00AAA#18 ∧
    exec (.load 0x0AAA#16) s = .next { s with w := 0x0AAA#16 }

/-- R71. ENCODE, with its corner cases and worked example. -/
def Obligations.EncodeReplacesWByItsCode : Prop :=
  ∀ (imm : Word16) (s : State),
    encUnit s.w = encode s.w ∧
    (encodeCmd (.encode imm)).extractLsb 17 16 = 0b01#2 ∧ encodeCmd (.encode 0#16) = 0x10000#18 ∧
    exec (.encode imm) s = .next { s with w := encode s.w } ∧
    (validCodeword s.w = true → exec (.encode imm) s = .next s) ∧
    exec (.encode imm) { s with w := encode s.w } = .next { s with w := encode s.w } ∧
    exec (.encode imm) { s with w := 0x0000#16 } = .next { s with w := 0x0000#16 } ∧
    exec (.encode imm) { s with w := 0xFFFF#16 } = .next { s with w := 0xFFFF#16 } ∧
    exec (.encode imm) { s with w := 0x0AAA#16 } = .next { s with w := 0x0AAF#16 } ∧
    validCodeword (encode s.w) = true

/-- R95. LOCATE, with its corner cases and worked example. -/
def Obligations.LocateRecordsTheStatus : Prop :=
  ∀ (imm : Word16) (s : State),
    (encodeCmd (.locate imm)).extractLsb 17 16 = 0b10#2 ∧ encodeCmd (.locate 0#16) = 0x20000#18 ∧
    exec (.locate imm) s = .next { s with st := status s.w } ∧
    exec (.locate imm) { s with st := status s.w } = .next { s with st := status s.w } ∧
    locateError 0x0000#16 = .noError ∧ locateError 0xFFFF#16 = .noError ∧
    locateError 0x0001#16 = .bitPosition 0#4 ∧
    stSyn (status 0x0001#16) = 0#4 ∧ stRes (status 0x0001#16) = 0b01#2 ∧
    stPerr (status 0x0001#16) = true ∧
    exec (.locate imm) { s with w := 0x0A2F#16 } = .next { s with w := 0x0A2F#16, st := 0x5DD#11 } ∧
    stRes 0x5DD#11 = 0b01#2 ∧ stPos 0x5DD#11 = 7#4 ∧ stSyn 0x5DD#11 = 7#4 ∧ stPerr 0x5DD#11 = true

/-- R96. CORRECT: both registers from the old `W`; what `ST.res` then says about `W`; the corner cases
and the worked example. -/
def Obligations.CorrectFlipsTheLocatedBit : Prop :=
  ∀ (imm : Word16) (s : State),
    (encodeCmd (.correct imm)).extractLsb 17 16 = 0b11#2 ∧ encodeCmd (.correct 0#16) = 0x30000#18 ∧
    exec (.correct imm) s = .next { s with w := correct s.w, st := status s.w } ∧
    (stRes (status s.w) = 0b01#2 → correct s.w = flipBit s.w (stPos (status s.w))) ∧
    (stRes (status s.w) = 0b00#2 ∨ stRes (status s.w) = 0b10#2 → correct s.w = s.w) ∧
    (validCodeword s.w = true → exec (.correct imm) s = .next { s with st := 0x000#11 }) ∧
    (locateError s.w = .multipleErrors → correct s.w = s.w ∧ stRes (status s.w) = 0b10#2) ∧
    (locateError s.w = .bitPosition 0#4 → correct s.w = flipBit s.w 0#4) ∧
    exec (.correct imm) { s with w := correct s.w, st := status s.w } =
      .next { s with w := correct s.w, st := status (correct s.w) } ∧
    (locateError (correct s.w) = .noError ∨ locateError (correct s.w) = .multipleErrors) ∧
    exec (.correct imm) { s with w := 0x0A2F#16 } = .next { s with w := 0x0AAF#16, st := 0x5DD#11 }

/-- R26. `W` is written by LOAD, ENCODE, CORRECT and reset, and by nothing else; every value is legal. -/
def Obligations.OnlyLoadEncodeCorrectResetWriteW : Prop :=
  (∀ (p : PortIn) (s t : State), blockStep p s = .next t → t.w ≠ s.w →
    p.rst = true ∨ (p.cmdValid = true ∧ ∃ imm : Word16,
      decodeCmd p.cmd = .load imm ∨ decodeCmd p.cmd = .encode imm ∨ decodeCmd p.cmd = .correct imm)) ∧
  (∀ (v : Word16) (s : State), ∃ t : State, exec (.load v) s = .next t ∧ t.w = v ∧ t.dout = v)

/-- R128. Who writes `ST`, and when it is stale. -/
def Obligations.StatusIsWrittenByLocateCorrectReset : Prop :=
  (∀ (p : PortIn) (s t : State), blockStep p s = .next t → t.st ≠ s.st →
    p.rst = true ∨ (p.cmdValid = true ∧ ∃ imm : Word16,
      decodeCmd p.cmd = .locate imm ∨ decodeCmd p.cmd = .correct imm)) ∧
  (∀ (imm : Word16) (s : State), ∃ t : State, exec (.load imm) s = .next t ∧ t.st = s.st) ∧
  (∀ (imm : Word16) (s : State), ∃ t : State, exec (.encode imm) s = .next t ∧ t.st = s.st) ∧
  (∀ (imm : Word16) (s : State), ∃ t : State, exec (.correct imm) s = .next t ∧
    t.st = status s.w ∧ (stRes t.st = 0b01#2 → t.w = correct s.w ∧ ¬ StatusCurrent t)) ∧
  (∀ (imm : Word16) (s : State), ∃ t : State, exec (.locate imm) s = .next t ∧ StatusCurrent t) ∧
  (∀ (imm : Word16) (x : StatusWord) (s : State),
    exec (.locate imm) { s with st := x } = exec (.locate imm) s ∧
    exec (.correct imm) { s with st := x } = exec (.correct imm) s)

/-- The frame of the four commands (10_state.md sections 1 and 2): LOAD and ENCODE keep `ST`, ENCODE
and LOCATE keep every payload bit, LOCATE keeps `W`, CORRECT changes at most the bit `ST.pos` names
and only when `ST.res` is 0b01. No command touches the host's coming samples (log entry 1). There is
no other register, and no memory. -/
def Obligations.CommandFrames : Prop :=
  ∀ (imm : Word16) (s : State),
    (∃ t : State, exec (.load imm) s = .next t ∧ t.st = s.st ∧ t.inputs = s.inputs) ∧
    (∃ t : State, exec (.encode imm) s = .next t ∧ t.st = s.st ∧ t.inputs = s.inputs ∧
      t.w &&& PAYLOAD_MASK = s.w &&& PAYLOAD_MASK) ∧
    (∃ t : State, exec (.locate imm) s = .next t ∧ t.w = s.w ∧ t.inputs = s.inputs) ∧
    (∃ t : State, exec (.correct imm) s = .next t ∧ t.inputs = s.inputs ∧
      ∀ q : Pos4, getBit t.w q ≠ getBit s.w q → stRes t.st = 0b01#2 ∧ q = stPos t.st)

/-! ### ENC -/

/-- 00_scope.md section 5 and 10_state.md section 1: the masks, which the spec marks as derived, are
the position sets. -/
def Obligations.MasksAreThePositionSets : Prop :=
  (∀ p : Pos4, getBit COVER1 p = p.getLsbD 0 ∧ getBit COVER2 p = p.getLsbD 1 ∧
    getBit COVER4 p = p.getLsbD 2 ∧ getBit COVER8 p = p.getLsbD 3) ∧
  (∀ p : Pos4, getBit CONTROL_MASK p = (p ∈ [1#4, 2#4, 4#4, 8#4] : Bool)) ∧
  (∀ p : Pos4, getBit CHECK_MASK p = (p ∈ [0#4, 1#4, 2#4, 4#4, 8#4] : Bool)) ∧
  (∀ p : Pos4, getBit PAYLOAD_MASK p = !getBit CHECK_MASK p)

/-- R60 and R65. Step 1 clears exactly the check positions; bit 0 of the result is the XOR of its bits
15 down to 1, computed after the control bits, while bit 0 is still 0. -/
def Obligations.EncodeClearsThenSetsParity : Prop :=
  ∀ w : Word16,
    encodeStep1 w = w &&& 0xFEE8#16 ∧ encodeStep1 w = w &&& PAYLOAD_MASK ∧
    (∀ q ∈ [0#4, 1#4, 2#4, 4#4, 8#4], getBit (encodeStep1 w) q = false) ∧
    (∀ q ∈ [3#4, 5#4, 6#4, 7#4, 9#4, 10#4, 11#4, 12#4, 13#4, 14#4, 15#4],
      getBit (encodeStep1 w) q = getBit w q) ∧
    let w5 := encodeStep5 (encodeStep4 (encodeStep3 (encodeStep2 (encodeStep1 w))))
    getBit w5 0#4 = false ∧ xorbits w5 = xorbits (w5.extractLsb 15 1) ∧
    encode w = setBit w5 0#4 (xorbits w5) ∧
    getBit (encode w) 0#4 = xorbits ((encode w).extractLsb 15 1)

/-- R61 to R64. Each control bit is the XOR of the payload positions of its cover, and each step writes
its own bit only. -/
def Obligations.ControlBitsCoverThePayload : Prop :=
  (∀ v : Word16,
    encodeStep2 v = setBit v 1#4 (xorbits (v &&& 0xAAAA#16)) ∧
    encodeStep3 v = setBit v 2#4 (xorbits (v &&& 0xCCCC#16)) ∧
    encodeStep4 v = setBit v 4#4 (xorbits (v &&& 0xF0F0#16)) ∧
    encodeStep5 v = setBit v 8#4 (xorbits (v &&& 0xFF00#16))) ∧
  ∀ w : Word16,
    let w1 := encodeStep1 w
    let w2 := encodeStep2 w1
    let w3 := encodeStep3 w2
    let w4 := encodeStep4 w3
    let w5 := encodeStep5 w4
    getBit w1 1#4 = false ∧ getBit w2 2#4 = false ∧ getBit w3 4#4 = false ∧ getBit w4 8#4 = false ∧
    (∀ q : Pos4, q ≠ 1#4 → getBit w2 q = getBit w1 q) ∧ (∀ q : Pos4, q ≠ 2#4 → getBit w3 q = getBit w2 q) ∧
    (∀ q : Pos4, q ≠ 4#4 → getBit w4 q = getBit w3 q) ∧ (∀ q : Pos4, q ≠ 8#4 → getBit w5 q = getBit w4 q) ∧
    (getBit w2 1#4 = (getBit w 3#4 ^^ getBit w 5#4 ^^ getBit w 7#4 ^^ getBit w 9#4 ^^ getBit w 11#4 ^^
      getBit w 13#4 ^^ getBit w 15#4)) ∧ getBit (encode w) 1#4 = getBit w2 1#4 ∧
    (getBit w3 2#4 = (getBit w 3#4 ^^ getBit w 6#4 ^^ getBit w 7#4 ^^ getBit w 10#4 ^^ getBit w 11#4 ^^
      getBit w 14#4 ^^ getBit w 15#4)) ∧ getBit (encode w) 2#4 = getBit w3 2#4 ∧
    (getBit w4 4#4 = (getBit w 5#4 ^^ getBit w 6#4 ^^ getBit w 7#4 ^^ getBit w 12#4 ^^ getBit w 13#4 ^^
      getBit w 14#4 ^^ getBit w 15#4)) ∧ getBit (encode w) 4#4 = getBit w4 4#4 ∧
    (getBit w5 8#4 = (getBit w 9#4 ^^ getBit w 10#4 ^^ getBit w 11#4 ^^ getBit w 12#4 ^^
      getBit w 13#4 ^^ getBit w 14#4 ^^ getBit w 15#4)) ∧ getBit (encode w) 8#4 = getBit w5 8#4

/-- R66. The composed function keeps the payload; its worked examples. -/
def Obligations.EncodeKeepsThePayload : Prop :=
  (∀ w : Word16, encode w =
    encodeStep6 (encodeStep5 (encodeStep4 (encodeStep3 (encodeStep2 (encodeStep1 w)))))) ∧
  (∀ w : Word16, encode w &&& PAYLOAD_MASK = w &&& PAYLOAD_MASK) ∧
  encode 0x0000#16 = 0x0000#16 ∧ encode 0xFFFF#16 = 0xFFFF#16 ∧
  encode 0x0AAA#16 = 0x0AAF#16 ∧ encode 0x8000#16 = 0x8117#16

/-- 40_encoder.md section 2, marked there as derived: the closed form gives the same value, and the four
control-bit steps may be taken in the reverse order. -/
def Obligations.EncodeEqualsItsClosedForm : Prop :=
  (∀ w : Word16, encode w = encodeClosed w) ∧
  (∀ w : Word16, encode w =
    encodeStep6 (encodeStep2 (encodeStep3 (encodeStep4 (encodeStep5 (encodeStep1 w))))))

/-- 40_encoder.md section 2, marked there as derived: `encode` is a function of the payload alone,
injective on payloads, idempotent, and its image is the set of valid codewords. -/
def Obligations.EncodeDependsOnThePayload : Prop :=
  (∀ w : Word16, encode w = encode (w &&& PAYLOAD_MASK)) ∧
  (∀ a b : Word16, encode a = encode b ↔ a &&& PAYLOAD_MASK = b &&& PAYLOAD_MASK) ∧
  (∀ w : Word16, encode (encode w) = encode w) ∧
  (∀ c : Word16, validCodeword c = true ↔ ∃ w : Word16, encode w = c)

/-- R69. The invariants of an encoded word. -/
def Obligations.EncodedWordsAreClean : Prop :=
  ∀ w : Word16,
    xorbits (encode w) = false ∧ syndrome (encode w) = 0#4 ∧ locateError (encode w) = .noError ∧
    validCodeword (encode w) = true

/-- 40_encoder.md section 2, marked there as derived: `encode` is linear, valid codewords have even
weight, and two different ones differ in at least 4 positions. -/
def Obligations.EncodeIsLinearWithDistanceFour : Prop :=
  encode 0#16 = 0#16 ∧
  (∀ a b : Word16, encode (a ^^^ b) = encode a ^^^ encode b) ∧
  (∀ c : Word16, validCodeword c = true → weight c % 2 = 0 ∧ (c ≠ 0#16 → 4 ≤ weight c)) ∧
  (∀ c d : Word16, validCodeword c = true → validCodeword d = true → c ≠ d → 4 ≤ weight (c ^^^ d)) ∧
  ∃ c : Word16, validCodeword c = true ∧ weight c = 4

/-- 10_state.md section 1, the equivalent forms marked there as derived: the five equations, the XORs
over the covers, zero syndrome and mismatch, NoError, and fixed point of `encode` are one condition,
and there is exactly one valid codeword per payload. -/
def Obligations.ValidCodewordForms : Prop :=
  (∀ w : Word16, validCodeword w = true ↔
    xorbits (w &&& COVER1) = false ∧ xorbits (w &&& COVER2) = false ∧
    xorbits (w &&& COVER4) = false ∧ xorbits (w &&& COVER8) = false ∧ xorbits w = false) ∧
  (∀ w : Word16, validCodeword w = true ↔ syndrome w = 0#4 ∧ parityMismatch w = false) ∧
  (∀ w : Word16, validCodeword w = true ↔ locateError w = .noError) ∧
  (∀ w : Word16, validCodeword w = true ↔ w = encode w) ∧
  (∀ d : Payload, ∃! c : Word16, validCodeword c = true ∧ unpack c = d)

/-! ### SYN -/

/-- R75. The parity mismatch, in its two forms, and what it is on a valid codeword. -/
def Obligations.ParityMismatchForms : Prop :=
  (∀ w : Word16, parityMismatch w = xorbits w ∧
    parityMismatch w = (xorbits (w.extractLsb 15 1) ^^ getBit w 0#4)) ∧
  (∀ w : Word16, validCodeword w = true → parityMismatch w = false)

/-- 41_syndrome.md section 2, marked there as derived: the syndrome bit by bit, and bit 0 of the word
never changes it. -/
def Obligations.SyndromeIsFourXorTrees : Prop :=
  (∀ w : Word16,
    (syndrome w).getLsbD 0 = xorbits (w &&& COVER1) ∧ (syndrome w).getLsbD 1 = xorbits (w &&& COVER2) ∧
    (syndrome w).getLsbD 2 = xorbits (w &&& COVER4) ∧ (syndrome w).getLsbD 3 = xorbits (w &&& COVER8)) ∧
  (∀ w : Word16, syndrome (flipBit w 0#4) = syndrome w)

/-- 41_syndrome.md section 3, marked there as derived: the effect of bit flips, linearity, and that an
error pattern shows through whatever the payload is. -/
def Obligations.SyndromeIsLinear : Prop :=
  (∀ (w : Word16) (p : Pos4), syndrome (flipBit w p) = syndrome w ^^^ p ∧
    parityMismatch (flipBit w p) = !parityMismatch w) ∧
  (∀ a b : Word16, syndrome (a ^^^ b) = syndrome a ^^^ syndrome b ∧
    parityMismatch (a ^^^ b) = (parityMismatch a ^^ parityMismatch b)) ∧
  (∀ c e : Word16, validCodeword c = true →
    syndrome (c ^^^ e) = syndrome e ∧ parityMismatch (c ^^^ e) = xorbits e)

/-- 41_syndrome.md section 3, marked there as derived: what the two values mean for each number of
flipped positions. -/
def Obligations.ErrorPatternMeaning : Prop :=
  ∀ c e : Word16, validCodeword c = true →
    (e = 0#16 → syndrome (c ^^^ e) = 0#4 ∧ parityMismatch (c ^^^ e) = false) ∧
    (∀ p : Pos4, e = oneAt p → syndrome (c ^^^ e) = p ∧ parityMismatch (c ^^^ e) = true) ∧
    (∀ p q : Pos4, p ≠ q → e = oneAt p ^^^ oneAt q →
      syndrome (c ^^^ e) = p ^^^ q ∧ p ^^^ q ≠ 0#4 ∧ parityMismatch (c ^^^ e) = false) ∧
    (weight e % 2 = 0 → parityMismatch (c ^^^ e) = false ∧
      (syndrome (c ^^^ e) = 0#4 ↔ validCodeword e = true)) ∧
    (weight e % 2 = 1 → parityMismatch (c ^^^ e) = true)

/-! ### ELC -/

/-- R86. The decision, branch by branch; the branches are exclusive and cover all words. -/
def Obligations.LocateDecision : Prop :=
  ∀ w : Word16,
    (syndrome w = 0#4 ∧ parityMismatch w = false → locateError w = .noError) ∧
    (parityMismatch w = true → locateError w = .bitPosition (syndrome w)) ∧
    (syndrome w ≠ 0#4 ∧ parityMismatch w = false → locateError w = .multipleErrors)

/-- 42_locate_correct.md section 1, marked there as derived: how many of the 65536 words give each
result. -/
def Obligations.LocateCounts : Prop :=
  Nat.card { w : Word16 // locateError w = .noError } = 2048 ∧
  (∀ p : Pos4, Nat.card { w : Word16 // locateError w = .bitPosition p } = 2048) ∧
  Nat.card { w : Word16 // ∃ p : Pos4, locateError w = .bitPosition p } = 32768 ∧
  Nat.card { w : Word16 // locateError w = .multipleErrors } = 30720

/-- R89. `correct`: pass-through, or the located bit flipped. -/
def Obligations.CorrectPassesThroughOrFlips : Prop :=
  ∀ w : Word16,
    (locateError w = .noError → correct w = w) ∧
    (locateError w = .multipleErrors → correct w = w) ∧
    (∀ p : Pos4, locateError w = .bitPosition p → correct w = flipBit w p)

/-- R90. The three properties the document states: every encoded word is clean, every single error is
located, and every single error is corrected. -/
def Obligations.SingleErrorsAreCorrected : Prop :=
  (∀ d : Payload, locateError (encode (pack d)) = .noError) ∧
  (∀ w : Word16, locateError (encode w) = .noError) ∧
  (∀ (c : Word16) (p : Pos4), validCodeword c = true → correct (flipBit c p) = c) ∧
  (∀ (c : Word16) (p : Pos4), validCodeword c = true → locateError (flipBit c p) = .bitPosition p)

/-- 42_locate_correct.md section 3, marked there as derived: double errors are detected and left
alone. -/
def Obligations.DoubleErrorsAreDetected : Prop :=
  ∀ (c : Word16) (p q : Pos4), validCodeword c = true → p ≠ q →
    locateError (flipBit (flipBit c p) q) = .multipleErrors ∧
    correct (flipBit (flipBit c p) q) = flipBit (flipBit c p) q

/-- 42_locate_correct.md section 3, marked there as derived: three or more errors are beyond the code.
An odd number is miscorrected into another valid codeword; an even number is reported as
MultipleErrors, or as NoError when the pattern is itself a valid codeword. -/
def Obligations.ThreeOrMoreErrorsAreBeyondTheCode : Prop :=
  ∀ c e : Word16, validCodeword c = true → 3 ≤ weight e →
    (weight e % 2 = 1 → locateError (c ^^^ e) = .bitPosition (syndrome e) ∧
      validCodeword (correct (c ^^^ e)) = true ∧ correct (c ^^^ e) ≠ c) ∧
    (weight e % 2 = 0 → validCodeword e = true → locateError (c ^^^ e) = .noError) ∧
    (weight e % 2 = 0 → validCodeword e = false → locateError (c ^^^ e) = .multipleErrors)

/-- 42_locate_correct.md section 3, marked there as derived: `correct` is idempotent, and where it acts
it gives the only valid codeword at distance one. -/
def Obligations.CorrectIsIdempotent : Prop :=
  (∀ w : Word16, correct (correct w) = correct w) ∧
  (∀ w : Word16, locateError (correct w) = .noError ∨ locateError (correct w) = .multipleErrors) ∧
  (∀ (w : Word16) (p : Pos4), locateError w = .bitPosition p →
    validCodeword (correct w) = true ∧
    ∀ c : Word16, validCodeword c = true → weight (w ^^^ c) = 1 → c = correct w) ∧
  (∀ w : Word16, (∀ p : Pos4, locateError w ≠ .bitPosition p) → correct w = w)

/-- R94. The status word as a number and field by field, and its examples. -/
def Obligations.StatusFields : Prop :=
  (∀ w : Word16,
    (status w).toNat = (parityMismatch w).toNat <<< 10 ||| (syndrome w).toNat <<< 6 |||
      (posCode (locateError w)).toNat <<< 2 ||| (resCode (locateError w)).toNat ∧
    stPerr (status w) = parityMismatch w ∧ stSyn (status w) = syndrome w ∧
    (locateError w = .noError → stRes (status w) = 0b00#2 ∧ stPos (status w) = 0#4) ∧
    (∀ p : Pos4, locateError w = .bitPosition p →
      stRes (status w) = 0b01#2 ∧ stPos (status w) = p ∧ p = syndrome w) ∧
    (locateError w = .multipleErrors → stRes (status w) = 0b10#2 ∧ stPos (status w) = 0#4)) ∧
  status 0x0AAF#16 = 0x000#11 ∧ status 0x0A2F#16 = 0x5DD#11 ∧ status 0x0A2E#16 = 0x1C2#11 ∧
  status 0x0AAE#16 = 0x401#11

/-- 10_state.md section 2 (`res` and `pos` are a function of `syn` and `perr`): every step keeps the
status register in the observable patterns, from any state that has it there. -/
def Obligations.EveryStepKeepsTheStatusLegal : Prop :=
  ∀ s t : State, Inv s → step s = .next t → Inv t

/-- The invariant holds at reset. -/
def Obligations.ResetStatusIsLegal : Prop := Inv State.reset

/-- 10_state.md section 2, the count marked there as derived: the legal patterns are the 32 that some
word's status shows; 0b11 is not among their classes, and `pos` is 0 unless the class is BitPosition. -/
def Obligations.LegalStatusPatterns : Prop :=
  (∀ v : StatusWord, StatusLegal v ↔ ∃ w : Word16, status w = v) ∧
  Nat.card { v : StatusWord // StatusLegal v } = 32 ∧
  (∀ v : StatusWord, StatusLegal v → stRes v ≠ 0b11#2 ∧ (stRes v ≠ 0b01#2 → stPos v = 0#4) ∧
    (stRes v = 0b01#2 → stPos v = stSyn v)) ∧
  (∀ w : Word16, readLocation (status w) = some (locateError w))

/-- 41_syndrome.md section 4 and 42_locate_correct.md section 4, the equation of ELC marked there as
derived: the wired units give what the commands write. -/
def Obligations.UnitsImplementTheCommands : Prop :=
  (∀ w : Word16, (synUnit w).synOut = syndrome w ∧ (synUnit w).perrOut = parityMismatch w) ∧
  (∀ w : Word16, (elcUnit w (syndrome w) (parityMismatch w)).elcOut = correct w) ∧
  (∀ (imm : Word16) (s : State),
    exec (.encode imm) s = .next { s with w := encUnit s.w } ∧
    exec (.locate imm) s = .next { s with st := unitStatus s } ∧
    exec (.correct imm) s = .next { s with w := (elcOfW s).elcOut, st := unitStatus s })

/-! ### Hazards -/

/-- R129. ENCODE overwrites the check bits from the payload, and after it LOCATE reports NoError,
whatever `W` was. -/
def Obligations.EncodeErasesTheEvidence : Prop :=
  (∀ (imm : Word16) (s : State) (w' : Word16), w' &&& PAYLOAD_MASK = s.w &&& PAYLOAD_MASK →
    exec (.encode imm) { s with w := w' } = exec (.encode imm) s) ∧
  (∀ (a b : Word16) (s : State), ∃ t u : State,
    exec (.encode a) s = .next t ∧ validCodeword t.w = true ∧
    exec (.locate b) t = .next u ∧ u.w = t.w ∧ readLocation u.st = some .noError)

/-- R130. CORRECT leaves `W` unchanged both for NoError and for MultipleErrors, so `dout` alone cannot
tell the two apart; `st[1:0]`, which the host must read, is 0b00 for one and 0b10 for the other. -/
def Obligations.PassThroughLooksLikeSuccess : Prop :=
  (∀ (imm : Word16) (s : State), ∃ t : State, exec (.correct imm) s = .next t ∧
    (locateError s.w = .noError → t.dout = s.dout ∧ stRes t.stOut = 0b00#2) ∧
    (locateError s.w = .multipleErrors → t.dout = s.dout ∧ stRes t.stOut = 0b10#2))

/-- R131. The guarantee: at most one flipped bit is restored, two are reported and left alone; with
three the block can put another valid codeword in `W`, with four it can report NoError. -/
def Obligations.GuaranteeForAtMostTwoFlips : Prop :=
  (∀ (imm : Word16) (c : Word16) (s : State),
    (ReceivedWithFlips c s.w 0 ∨ ReceivedWithFlips c s.w 1 →
      ∃ t : State, exec (.correct imm) s = .next t ∧ t.w = c ∧ stRes t.st ≠ 0b10#2) ∧
    (ReceivedWithFlips c s.w 2 →
      ∃ t : State, exec (.correct imm) s = .next t ∧ t.w = s.w ∧ stRes t.st = 0b10#2)) ∧
  (∃ (c : Word16) (s t : State), ReceivedWithFlips c s.w 3 ∧ exec (.correct 0#16) s = .next t ∧
    stRes t.st = 0b01#2 ∧ validCodeword t.w = true ∧ t.w ≠ c) ∧
  (∃ (c : Word16) (s t : State), ReceivedWithFlips c s.w 4 ∧ exec (.correct 0#16) s = .next t ∧
    stRes t.st = 0b00#2 ∧ t.w ≠ c)

/-- R111. MultipleErrors is a result: it stands in `ST.res`, changes nothing else, and repeating LOCATE
or CORRECT gives the same answer. -/
def Obligations.MultipleErrorsIsAResult : Prop :=
  ∀ (a b : Word16) (s : State), locateError s.w = .multipleErrors →
    ∃ t : State, exec (.locate a) s = .next t ∧ exec (.correct b) s = .next t ∧
      stRes t.st = 0b10#2 ∧ t.w = s.w ∧ t.inputs = s.inputs ∧
      exec (.locate a) t = .next t ∧ exec (.correct b) t = .next t

/-! ### The host side -/

/-- R101. Bit `i` of the payload goes to the `i`-th payload position; the check positions are 0. -/
def Obligations.PackPlacesThePayload : Prop :=
  (∀ d : Payload, ∀ i p : Nat,
    (i, p) ∈ [(0, 3), (1, 5), (2, 6), (3, 7), (4, 9), (5, 10), (6, 11), (7, 12), (8, 13), (9, 14), (10, 15)] →
    (pack d).getLsbD p = d.getLsbD i) ∧
  (∀ d : Payload, pack d &&& CHECK_MASK = 0#16) ∧
  pack 0x000#11 = 0x0000#16 ∧ pack 0x001#11 = 0x0008#16 ∧ pack 0x400#11 = 0x8000#16 ∧
  pack 0x7FF#11 = 0xFEE8#16 ∧ pack 0x555#11 = 0xAA48#16 ∧ pack 0x05B#11 = 0x0AA8#16

/-- R102. `unpack` is the inverse of `pack` on the payload positions. -/
def Obligations.UnpackInvertsPack : Prop :=
  (∀ d : Payload, unpack (pack d) = d) ∧
  (∀ w : Word16, pack (unpack w) = w &&& PAYLOAD_MASK) ∧
  (∀ w : Word16, (unpack w).getLsbD 0 = getBit w 3#4) ∧
  unpack 0x0AAF#16 = 0x05B#11

/-- R104. `singleton`: a hard failure for `p >= 16`, else the word with exactly bit `p` set. -/
def Obligations.SingletonValidity : Prop :=
  (∀ p : Nat, 16 ≤ p → singletonWord p = .error (.invalidPosition p)) ∧
  (∀ p : Nat, p < 16 → ∃ w : Word16, singletonWord p = .ok w ∧ w = 1#16 <<< p ∧ weight w = 1 ∧
    ∀ q : Nat, w.getLsbD q = decide (q = p))

/-- R103. The flip the host asks for: a LOAD of the flipped word, or a refusal with no command issued. -/
def Obligations.FlipRequest : Prop :=
  (∀ (p : Nat) (w : Word16), p < 16 → flipAt w p = .ok (w ^^^ (1#16 <<< p))) ∧
  (∀ (p : Nat) (s : State), p < 16 →
    act (.issue (.flip p)) s = .ok { s with w := s.w ^^^ (1#16 <<< p) }) ∧
  (∀ (p : Nat) (s : State), 16 ≤ p →
    act (.issue (.flip p)) s = .error (.request (.invalidPosition p)))

/-- 30_encoding.md section 5, R56. The pseudo-commands and their refusals. The name `payloadTooWide` of
LOADP's refusal is the model's choice (log entry 12, DESIGN CHOICE). -/
def Obligations.PseudoCommandExpansions : Prop :=
  (∀ (w : Word16) (p : Nat), p < 16 → assemble w (.flip p) = .ok (.load (w ^^^ (1#16 <<< p)))) ∧
  (∀ (w : Word16) (p : Nat), 16 ≤ p → assemble w (.flip p) = .error (.invalidPosition p)) ∧
  (∀ (w : Word16) (d : Nat), d < 2048 →
    assemble w (.loadp d) = .ok (.load (pack (BitVec.ofNat 11 d)))) ∧
  (∀ (w : Word16) (d : Nat), 2048 ≤ d → assemble w (.loadp d) = .error (.payloadTooWide d)) ∧
  (∀ (w : Word16) (p : Nat), p < 16 → assemble w (.loads p) = .ok (.load (1#16 <<< p))) ∧
  (∀ (w : Word16) (p : Nat), 16 ≤ p → assemble w (.loads p) = .error (.invalidPosition p))

/-- 30_encoding.md section 5: the assembled words, and exactly the well-formed lines assemble, each to a
canonical command. White space, digit case and the name `operandTooWide` of LOAD's refusal are the
model's choices (log entries 6, 7 and 12, DESIGN CHOICE). -/
def Obligations.AssembledWords : Prop :=
  (∀ (w : Word16) (v : Nat), v < 65536 →
    assemble w (.load v) = .ok (.load (BitVec.ofNat 16 v)) ∧
    encodeCmd (.load (BitVec.ofNat 16 v)) = BitVec.ofNat 18 v) ∧
  (∀ (w : Word16) (v : Nat), 65536 ≤ v → assemble w (.load v) = .error (.operandTooWide v)) ∧
  (∀ w : Word16, assembleLine w "ENCODE".toList = .ok (some 0x10000#18) ∧
    assembleLine w "LOCATE ; look".toList = .ok (some 0x20000#18) ∧
    assembleLine w "CORRECT".toList = .ok (some 0x30000#18) ∧
    assembleLine w "LOAD 0x0AAA".toList = .ok (some 0x00AAA#18)) ∧
  (∀ (w : Word16) (c : AsmCommand), c.wellFormed = true ↔ ∃ i : Instr, assemble w c = .ok i) ∧
  (∀ (w : Word16) (c : AsmCommand) (i : Instr), assemble w c = .ok i → i.canonical = true)

/-- R106. The driver's sequence, for every word drawn and every flipped position or none: it completes
and the final `dout` equals the `dout` read after ENCODE. That the final `st` names the flipped bit
follows from R90 (the location is right) and R96 (CORRECT writes the status it acted on). -/
def Obligations.DriverSequenceRestoresTheWord : Prop :=
  ∀ (s : State) (v : Word16) (p : Option Pos4), ∃ t u : State,
    session (sendActions v) s = .ok t ∧ t.dout = encode v ∧
    session (receiveActions p) t = .ok u ∧ session (driverActions v p) s = .ok u ∧
    u.dout = t.dout ∧
    readLocation u.stOut = some (match p with | none => .noError | some q => .bitPosition q)

/-- R134 and 20_memory.md section 3: commands take effect one at a time, in order, each on what the one
before left, and a finite list of commands ends after its last step. The list of samples is the
model's choice (log entry 1). -/
def Obligations.CommandListsRunInOrderAndEnd : Prop :=
  (∀ (i : Instr) (cs : List Instr) (s : State),
    step (s.withCommands (i :: cs)) = exec i (s.withCommands cs)) ∧
  (∀ (cs : List Instr) (s : State), ∃ t : State,
    Host.Core.run Sys2Proof.core cs.length (s.withCommands cs) = .next t ∧ t.inputs = [])
end

