-- ==== Sys2Proof/Laws/Bits.lean ====
section
/-! SUPPORT. The laws of the primitives of spec/00_scope.md R9: what each does to each bit, and the
XOR-reduction as a linear map. -/

namespace Sys2Proof.Machine

/-- Two words with the same bits at all sixteen positions are equal. -/
theorem word_ext {a b : Word16} (h : ∀ q, getBit a q = getBit b q) : a = b := by
  refine BitVec.eq_of_getLsbD_eq fun i hi => ?_
  have := h (BitVec.ofNat 4 i)
  rwa [getBit, getBit, BitVec.toNat_ofNat, Nat.mod_eq_of_lt (by omega)] at this

theorem getBit_and (a b : Word16) (q : Pos4) : getBit (a &&& b) q = (getBit a q && getBit b q) :=
  BitVec.getLsbD_and

theorem getBit_or (a b : Word16) (q : Pos4) : getBit (a ||| b) q = (getBit a q || getBit b q) :=
  BitVec.getLsbD_or

theorem getBit_xor (a b : Word16) (q : Pos4) : getBit (a ^^^ b) q = (getBit a q ^^ getBit b q) :=
  BitVec.getLsbD_xor

theorem getBit_not (a : Word16) (q : Pos4) : getBit (~~~a) q = !getBit a q := by
  have := q.isLt
  simp only [getBit, BitVec.getLsbD_not, Bool.and_eq_right_iff_imp]
  intro _; exact decide_eq_true (by omega)

/-- Bit `q` of `1 << p`. -/
theorem getBit_oneAt (p q : Pos4) : getBit (oneAt p) q = decide (q = p) := by
  revert p q; decide

/-- Bit `q` of `setBit(w, p, b)`. -/
theorem getBit_setBit (w : Word16) (p q : Pos4) (b : Bool) :
    getBit (setBit w p b) q = if q = p then b else getBit w q := by
  have hb : getBit ((BitVec.ofBool b).setWidth 16 <<< p.toNat) q = (decide (q = p) && b) := by
    revert p q b; decide
  rw [setBit, getBit_or, getBit_and, getBit_not, getBit_oneAt, hb]
  by_cases h : q = p <;> simp [h]

/-- Bit `q` of `flipBit(w, p)`. -/
theorem getBit_flipBit (w : Word16) (p q : Pos4) :
    getBit (flipBit w p) q = (getBit w q ^^ decide (q = p)) := by
  rw [flipBit, getBit_xor, getBit_oneAt]

theorem flipBit_flipBit (w : Word16) (p : Pos4) : flipBit (flipBit w p) p = w :=
  word_ext fun q => by simp [getBit_flipBit]

/-- A fold of XORs over the XOR of two families is the XOR of the folds. -/
theorem foldl_xor_xor (l : List Nat) (f g : Nat → Bool) (x y : Bool) :
    l.foldl (fun acc p => acc ^^ (f p ^^ g p)) (x ^^ y) =
      (l.foldl (fun acc p => acc ^^ f p) x ^^ l.foldl (fun acc p => acc ^^ g p) y) := by
  induction l generalizing x y with
  | nil => rfl
  | cons p l ih =>
    simp only [List.foldl_cons]
    rw [← ih]
    congr 1
    cases x <;> cases y <;> cases f p <;> cases g p <;> rfl

/-- XOR-reduction is linear. -/
theorem xorbits_xor {n : Nat} (a b : BitVec n) : xorbits (a ^^^ b) = (xorbits a ^^ xorbits b) := by
  have := foldl_xor_xor (List.range n) a.getLsbD b.getLsbD false false
  simpa only [xorbits, BitVec.getLsbD_xor, Bool.xor_false] using this

/-- The loop of R76 over the XOR of two families of bits is the XOR of the loops. -/
theorem foldl_index_xor (l : List Nat) (f g : Nat → Bool) (x y : Pos4) :
    l.foldl (fun s p => if (f p ^^ g p) then s ^^^ BitVec.ofNat 4 p else s) (x ^^^ y) =
      l.foldl (fun s p => if f p then s ^^^ BitVec.ofNat 4 p else s) x ^^^
      l.foldl (fun s p => if g p then s ^^^ BitVec.ofNat 4 p else s) y := by
  induction l generalizing x y with
  | nil => rfl
  | cons p l ih =>
    simp only [List.foldl_cons]
    rw [← ih]
    congr 1
    generalize BitVec.ofNat 4 p = q
    cases f p <;> cases g p <;> simp only [Bool.xor_false, Bool.false_xor, Bool.xor_self, if_true,
      Bool.false_eq_true, if_false] <;> revert x y q <;> decide

/-- The XOR-reduction of a 16-bit word, written out. -/
theorem xorbits_word (w : Word16) :
    xorbits w = (w.getLsbD 0 ^^ w.getLsbD 1 ^^ w.getLsbD 2 ^^ w.getLsbD 3 ^^ w.getLsbD 4 ^^
      w.getLsbD 5 ^^ w.getLsbD 6 ^^ w.getLsbD 7 ^^ w.getLsbD 8 ^^ w.getLsbD 9 ^^ w.getLsbD 10 ^^
      w.getLsbD 11 ^^ w.getLsbD 12 ^^ w.getLsbD 13 ^^ w.getLsbD 14 ^^ w.getLsbD 15) := by
  simp only [xorbits, List.range, List.range.loop, List.foldl_cons, List.foldl_nil, Bool.false_xor]

end Sys2Proof.Machine
end

