-- ==== Sys2Proof/Laws/Flags.lean ====
section
/-! SUPPORT. The laws of the status word: each field reads back what was packed (spec/10_state.md R27),
and the decision of R86 with its codes (R28). -/

namespace Sys2Proof.Machine

variable (m : Bool) (s p : Pos4) (r : BitVec 2)

@[simp] theorem stRes_packStatus : stRes (packStatus m s p r) = r := by
  revert m s p r; decide

@[simp] theorem stPos_packStatus : stPos (packStatus m s p r) = p := by
  revert m s p r; decide

@[simp] theorem stSyn_packStatus : stSyn (packStatus m s p r) = s := by
  revert m s p r; decide

@[simp] theorem stPerr_packStatus : stPerr (packStatus m s p r) = m := by
  revert m s p r; decide

/-- A status word is the packing of its own fields. -/
theorem packStatus_fields (v : StatusWord) :
    packStatus (stPerr v) (stSyn v) (stPos v) (stRes v) = v := by
  revert v; decide

/-- The three outcomes of the decision (R86, R87). -/
theorem locate_cases (s : Pos4) (m : Bool) :
    (s = 0#4 ∧ m = false ∧ locate s m = .noError) ∨
    (m = true ∧ locate s m = .bitPosition s) ∨
    (s ≠ 0#4 ∧ m = false ∧ locate s m = .multipleErrors) := by
  cases m with
  | true => exact .inr (.inl ⟨rfl, by simp [locate]⟩)
  | false =>
    by_cases h : s = 0#4
    · exact .inl ⟨h, rfl, by simp [locate, h]⟩
    · exact .inr (.inr ⟨h, rfl, by simp [locate, h]⟩)

end Sys2Proof.Machine
end

