-- ==== Sys2Proof/Laws/PerInstr.lean ====
section
/-! SUPPORT. A family of statements about commands as syntax, one lemma per constructor. -/

namespace Sys2Proof.Laws

/-- The two fields of a word put together from them. -/
theorem fields_of_append (a : BitVec 2) (b : Word16) :
    opField (a ++ b) = a ∧ immField (a ++ b) = b := by
  constructor
  · refine BitVec.eq_of_getLsbD_eq fun k hk => ?_
    rw [opField, BitVec.getLsbD_extractLsb]
    exact (congrArg₂ (· && ·) (decide_eq_true (by omega)) BitVec.getLsbD_append).trans (by simp)
  · refine BitVec.eq_of_getLsbD_eq fun k hk => ?_
    rw [immField, BitVec.getLsbD_extractLsb]
    exact (congrArg₂ (· && ·) (decide_eq_true (by omega)) BitVec.getLsbD_append).trans (by simp [hk])

/-- A command word is its two fields, `op` in the high bits. -/
theorem append_of_fields (c : CmdWord) : (opField c ++ immField c : BitVec (2 + 16)) = c := by
  refine BitVec.eq_of_getLsbD_eq fun k hk => ?_
  rw [BitVec.getLsbD_append]
  by_cases h : k < 16
  · rw [if_pos h, immField, BitVec.getLsbD_extractLsb]; simp; omega
  · rw [if_neg h, opField, BitVec.getLsbD_extractLsb]
    have : 16 + (k - 16) = k := by omega
    simp [this]; omega

end Sys2Proof.Laws

namespace Sys2Proof.Laws.Fields

/-- The word of a command shows its `op` in bits 17:16 and its `imm` in bits 15:0 (R50). -/
def Statement (i : Instr) : Prop :=
  opField (encodeCmd i) = opOf i ∧ immField (encodeCmd i) = immOf i

theorem load (imm : Word16) : Statement (.load imm) := fields_of_append _ _
theorem encode (imm : Word16) : Statement (.encode imm) := fields_of_append _ _
theorem locate (imm : Word16) : Statement (.locate imm) := fields_of_append _ _
theorem correct (imm : Word16) : Statement (.correct imm) := fields_of_append _ _

end Sys2Proof.Laws.Fields
end

