-- ==== Sys2Proof/Laws/State.lean ====
section
/-! SUPPORT. One lemma per field per update of the state, so that no proof unfolds a record update. -/

namespace Sys2Proof.Machine

variable (s : State) (v : Word16) (x : StatusWord) (p : PortIn)

@[simp] theorem State.readW_eq : s.readW = s.w := rfl
@[simp] theorem State.readST_eq : s.readST = s.st := rfl
@[simp] theorem State.dout_eq : s.dout = s.w := rfl
@[simp] theorem State.stOut_eq : s.stOut = s.st := rfl

@[simp] theorem State.writeW_w : (s.writeW v).w = v := rfl
@[simp] theorem State.writeW_st : (s.writeW v).st = s.st := rfl
@[simp] theorem State.writeW_inputs : (s.writeW v).inputs = s.inputs := rfl

@[simp] theorem State.writeST_w : (s.writeST x).w = s.w := rfl
@[simp] theorem State.writeST_st : (s.writeST x).st = x := rfl
@[simp] theorem State.writeST_inputs : (s.writeST x).inputs = s.inputs := rfl

@[simp] theorem State.resetRegs_w : s.resetRegs.w = RESET_W := rfl
@[simp] theorem State.resetRegs_st : s.resetRegs.st = RESET_ST := rfl
@[simp] theorem State.resetRegs_inputs : s.resetRegs.inputs = s.inputs := rfl

@[simp] theorem State.dropSample_w : s.dropSample.w = s.w := rfl
@[simp] theorem State.dropSample_st : s.dropSample.st = s.st := rfl
@[simp] theorem State.dropSample_inputs : s.dropSample.inputs = s.inputs.tail := rfl

@[simp] theorem State.pushSample_w : (s.pushSample p).w = s.w := rfl
@[simp] theorem State.pushSample_st : (s.pushSample p).st = s.st := rfl
@[simp] theorem State.pushSample_nextSample : (s.pushSample p).nextSample = p := rfl
@[simp] theorem State.pushSample_dropSample : (s.pushSample p).dropSample = s := rfl

@[simp] theorem State.reset_w : State.reset.w = RESET_W := rfl
@[simp] theorem State.reset_st : State.reset.st = RESET_ST := rfl

end Sys2Proof.Machine
end

