-- ==== Sys2Proof/Laws/Step.lean ====
section
/-! SUPPORT. What a command and a step can do, said once: every proof about steps cites these. -/

namespace Sys2Proof.Machine

@[simp] theorem portEvent_reset (v : Bool) (c : CmdWord) :
    portEvent { rst := true, cmdValid := v, cmd := c } = .reset := rfl
@[simp] theorem portEvent_command (c : CmdWord) :
    portEvent { rst := false, cmdValid := true, cmd := c } = .command (decodeCmd c) := rfl
@[simp] theorem portEvent_idle (c : CmdWord) :
    portEvent { rst := false, cmdValid := false, cmd := c } = .idle := rfl

/-- What a command can do: one of the four effects. -/
theorem exec_cases {i : Instr} {s t : State} (h : exec i s = .next t) :
    (∃ v, i = .load v ∧ t = s.writeW v) ∨
    (∃ v, i = .encode v ∧ t = s.writeW (encode s.w)) ∨
    (∃ v, i = .locate v ∧ t = s.writeST (status s.w)) ∨
    (∃ v, i = .correct v ∧ t = (s.writeST (status s.w)).writeW (correct s.w)) := by
  cases i with
  | load v => injection h with h; exact .inl ⟨v, rfl, h.symm⟩
  | encode v => injection h with h; exact .inr (.inl ⟨v, rfl, h.symm⟩)
  | locate v => injection h with h; exact .inr (.inr (.inl ⟨v, rfl, h.symm⟩))
  | correct v => injection h with h; exact .inr (.inr (.inr ⟨v, rfl, h.symm⟩))

/-- What the block can do on a sample of its ports: reset, run the command, or nothing. -/
theorem blockStep_cases {p : PortIn} {s t : State} (h : blockStep p s = .next t) :
    (p.rst = true ∧ t = s.resetRegs) ∨
    (p.rst = false ∧ p.cmdValid = true ∧ exec (decodeCmd p.cmd) s = .next t) ∨
    (p.rst = false ∧ p.cmdValid = false ∧ t = s) := by
  obtain ⟨rst, valid, c⟩ := p
  cases rst with
  | true => injection h with h; exact .inl ⟨rfl, h.symm⟩
  | false =>
    cases valid with
    | true => exact .inr (.inl ⟨rfl, rfl, h⟩)
    | false => injection h with h; exact .inr (.inr ⟨rfl, rfl, h.symm⟩)

/-- A step is the block's step on the next sample, with that sample taken. -/
theorem step_eq (s : State) : step s = blockStep s.nextSample s.dropSample := rfl

@[simp] theorem step_pushSample (s : State) (p : PortIn) :
    step (s.pushSample p) = blockStep p s := rfl

end Sys2Proof.Machine
end

