-- ==== Sys2Proof/Tests/Slice0.lean ====
section
/-! SUPPORT. Tests. Every expected value is taken from spec/95_test_vectors.md (the table is named) or
written out from the encoding of spec/30_encoding.md; then one witness per statement with hypotheses. -/

namespace Sys2Proof.Tests

open Sys2Proof Sys2Proof.Machine

/-- A small state with nothing placed by the host. -/
def st (w : Word16) (v : StatusWord) : State := { w := w, st := v, inputs := [] }

/-- What the step leaves in `W` and `ST`. -/
def regs : Host.Outcome State Fault Refusal → Option (Word16 × StatusWord)
  | .next t => some (t.w, t.st)
  | .fault _ => none
  | .refused _ => none

/-! ### The checks refuse what is ill formed -/

theorem test_canonical_refuses_encode : (Instr.encode 0xBEEF#16).canonical = false := by decide
theorem test_canonical_refuses_locate : (Instr.locate 0xFFFF#16).canonical = false := by decide
theorem test_canonical_refuses_correct : (Instr.correct 0x1234#16).canonical = false := by decide
theorem test_block_takes_them : (Instr.encode 0xBEEF#16).wellFormed = true := by decide
theorem test_fitsCmd_refuses : fitsCmd 0x40000 = false := by decide
theorem test_wf_refuses_load : (AsmCommand.load 65536).wellFormed = false := by decide
theorem test_wf_refuses_flip : (AsmCommand.flip 16).wellFormed = false := by decide
theorem test_wf_refuses_loadp : (AsmCommand.loadp 2048).wellFormed = false := by decide
theorem test_wf_refuses_loads : (AsmCommand.loads 16).wellFormed = false := by decide

/-! ### Words written out bit by bit, `op` then `imm` (R50, R51; V10) -/

theorem test_decode_load : decodeCmd 0b00_0000101010101010#18 = .load 0x0AAA#16 := by decide
theorem test_decode_encode : decodeCmd 0b01_1011111011101111#18 = .encode 0xBEEF#16 := by decide
theorem test_decode_locate : decodeCmd 0b10_1111111111111111#18 = .locate 0xFFFF#16 := by decide
theorem test_decode_correct : decodeCmd 0b11_0001001000110100#18 = .correct 0x1234#16 := by decide
theorem test_decodeNat_rejects : decodeNat 0x40000 = .error .widerThanCmdPort := by rfl
theorem test_decodeTableWord : decodeTableWord 24 0x20000 = some (.locate 0#16) := by decide

/-! ### One step from `W = 0x0A2F`, `ST = 0x000` (V10) -/

theorem test_step_load :
    regs (step ((st 0x0A2F#16 0#11).withFetchWord 24 0x00AAA)) = some (0x0AAA#16, 0x000#11) := by decide
theorem test_step_encode :
    regs (step ((st 0x0A2F#16 0#11).withFetchWord 24 0x1BEEF)) = some (0x0A39#16, 0x000#11) := by decide
theorem test_step_locate :
    regs (step ((st 0x0A2F#16 0#11).withFetchWord 24 0x2FFFF)) = some (0x0A2F#16, 0x5DD#11) := by decide
theorem test_step_correct :
    regs (step ((st 0x0A2F#16 0#11).withFetchWord 24 0x31234)) = some (0x0AAF#16, 0x5DD#11) := by decide

/-- P3: a double error passes through. -/
theorem test_step_correct_double :
    regs (step ((st 0x0A2E#16 0#11).withFetchWord 24 0x30000)) = some (0x0A2E#16, 0x1C2#11) := by decide
/-- P5 step 4: only check positions set; `ST` stays stale. -/
theorem test_step_encode_stale :
    regs (step ((st 0x0003#16 0x5DD#11).withFetchWord 24 0x10000)) = some (0x0000#16, 0x5DD#11) := by decide
/-- P9 step 4: `rst` wins over CORRECT. -/
theorem test_step_reset_wins :
    regs (step ((st 0x0A2F#16 0x5DD#11).pushSample { rst := true, cmdValid := true, cmd := 0x30000#18 })) =
      some (0x0000#16, 0x000#11) := by decide
/-- P9 step 3: `cmd` is not looked at while `cmd_valid = 0`. -/
theorem test_step_idle :
    regs (step ((st 0x0A2F#16 0x5DD#11).pushSample { rst := false, cmdValid := false, cmd := 0x3FFFF#18 })) =
      some (0x0A2F#16, 0x5DD#11) := by decide

/-! ### Functions (V1, V3, V6, V9) -/

theorem test_encode_cafe : encode 0xCAFE#16 = 0xCAF9#16 := by decide
theorem test_encode_closed_a5a5 : encodeClosed 0xA5A5#16 = 0xA5A5#16 := by decide
theorem test_syndrome_1234 : syndrome 0x1234#16 = 6#4 := by decide
/-- V6: the literal reading of the parity check would answer BitPosition(0). -/
theorem test_locate_not_literal : locateError 0x0AAF#16 = .noError := by decide
theorem test_locate_parity_bit : locateError 0x0001#16 = .bitPosition 0#4 := by decide
theorem test_correct_7fff : correct 0x7FFF#16 = 0xFFFF#16 := by decide
theorem test_status_8001 : status 0x8001#16 = 0x3C2#11 := by decide
theorem test_pack : pack 0x5A5#11 = 0xB448#16 := by decide
theorem test_unpack : unpack 0x0A2F#16 = 0x053#11 := by decide
/-- R81's worked example. -/
theorem test_syn_unit : synUnit 0x0A2F#16 = { synOut := 7#4, perrOut := true } := by decide

/-! ### Assembler lines (P1, P2, P7) -/

theorem test_line_load : assembleLine 0#16 "LOAD 0x0A2E  ; two flips".toList = .ok (some 0x00A2E#18) := by rfl
theorem test_line_flip : assembleLine 0x0AAF#16 "FLIP 7".toList = .ok (some 0x00A2F#18) := by rfl
theorem test_line_loadp : assembleLine 0#16 "LOADP 0x7FF".toList = .ok (some 0x0FEE8#18) := by rfl
theorem test_line_flip_refused :
    assembleLine 0xFFFF#16 "FLIP 16".toList = .error (.request (.invalidPosition 16)) := by rfl
/-- The model's choice, log entry 14: R55 gives upper case forms only. -/
theorem test_line_lower_case_refused : assembleLine 0#16 "encode".toList = .error .unreadable := by rfl

/-! ### Witnesses: a concrete input that meets the hypotheses of each statement, clause by clause -/

theorem witness_ResetStepDropsTheCommand :
    ({ rst := true, cmdValid := true, cmd := 0x30000#18 } : PortIn).rst = true ∧
    blockStep (.present 0x00AAA#18) (st 0#16 0#11) = .next (st 0x0AAA#16 0#11) ∧
    (st 0x0AAA#16 0#11).w ≠ (st 0#16 0#11).w := ⟨rfl, rfl, by decide⟩
theorem witness_IdleStepChangesNothing : State.reset.inputs = [] := rfl
theorem witness_StepRunsTheDecodedCommand :
    ((st 0#16 0#11).pushSample (.present 0x3FFFF#18)).inputs =
      { rst := false, cmdValid := true, cmd := 0x3FFFF#18 } :: [] ∧
    decodeTableWord 24 0x3FFFF = some (.correct 0xFFFF#16) := ⟨rfl, by decide⟩
theorem witness_OpSelectsTheCommand :
    0x0FFFF#18 &&& 0x30000#18 = 0x00000#18 ∧ 0x1FFFF#18 &&& 0x30000#18 = 0x10000#18 ∧
    0x2FFFF#18 &&& 0x30000#18 = 0x20000#18 ∧ 0x3FFFF#18 &&& 0x30000#18 = 0x30000#18 := by decide
theorem witness_EncodeReplacesWByItsCode : validCodeword (st 0xA5A5#16 0#11).w = true := by decide
theorem witness_CorrectFlipsTheLocatedBit :
    stRes (status 0x0A2F#16) = 0b01#2 ∧ stRes (status 0x0AAF#16) = 0b00#2 ∧
    stRes (status 0x0A2E#16) = 0b10#2 ∧ validCodeword 0x0AAF#16 = true ∧
    locateError 0x0A2E#16 = .multipleErrors ∧ locateError 0x0AAE#16 = .bitPosition 0#4 := by decide
theorem witness_OnlyLoadEncodeCorrectResetWriteW :
    blockStep (.present 0x00AAA#18) (st 0#16 0#11) = .next (st 0x0AAA#16 0#11) ∧
    (st 0x0AAA#16 0#11).w ≠ (st 0#16 0#11).w := ⟨rfl, by decide⟩
theorem witness_StatusIsWrittenByLocateCorrectReset :
    blockStep (.present 0x20000#18) (st 0x0A2F#16 0#11) = .next (st 0x0A2F#16 0x5DD#11) ∧
    (st 0x0A2F#16 0x5DD#11).st ≠ (st 0x0A2F#16 0#11).st ∧
    stRes (status 0x0A2F#16) = 0b01#2 := ⟨rfl, by decide, by decide⟩
theorem witness_CommandFrames :
    getBit (correct 0x0A2F#16) 7#4 ≠ getBit 0x0A2F#16 7#4 := by decide
theorem witness_EncodeClearsThenSetsParity : (8#4 : Pos4) ∈ [0#4, 1#4, 2#4, 4#4, 8#4] := by decide
theorem witness_ControlBitsCoverThePayload :
    (2#4 : Pos4) ≠ 1#4 ∧ (1#4 : Pos4) ≠ 2#4 ∧ (8#4 : Pos4) ≠ 4#4 ∧ (4#4 : Pos4) ≠ 8#4 := by decide
theorem witness_EncodeIsLinearWithDistanceFour :
    validCodeword 0x000F#16 = true ∧ 0x000F#16 ≠ 0#16 ∧ validCodeword 0x0033#16 = true ∧
    0x000F#16 ≠ 0x0033#16 := by decide
theorem witness_ParityMismatchForms : validCodeword 0x8117#16 = true := by decide
theorem witness_SyndromeIsLinear : validCodeword 0xFFFF#16 = true := by decide
theorem witness_ErrorPatternMeaning :
    validCodeword 0x0AAF#16 = true ∧ oneAt 0#4 = 0x0001#16 ∧ oneAt 15#4 = 0x8000#16 ∧
    (0#4 : Pos4) ≠ 15#4 ∧ 0x8001#16 = oneAt 0#4 ^^^ oneAt 15#4 ∧ weight 0x000F#16 % 2 = 0 ∧
    weight 0x0007#16 % 2 = 1 := by decide
theorem witness_LocateDecision :
    (syndrome 0x0AAF#16 = 0#4 ∧ parityMismatch 0x0AAF#16 = false) ∧ parityMismatch 0x0AAE#16 = true ∧
    (syndrome 0x8001#16 ≠ 0#4 ∧ parityMismatch 0x8001#16 = false) := by decide
theorem witness_CorrectPassesThroughOrFlips :
    locateError 0x0000#16 = .noError ∧ locateError 0x8001#16 = .multipleErrors ∧
    locateError 0x8000#16 = .bitPosition 15#4 := by decide
theorem witness_SingleErrorsAreCorrected : validCodeword 0xAAAA#16 = true := by decide
theorem witness_DoubleErrorsAreDetected :
    validCodeword 0x0AAF#16 = true ∧ (0#4 : Pos4) ≠ 15#4 := by decide
theorem witness_ThreeOrMoreErrorsAreBeyondTheCode :
    validCodeword 0x0AAF#16 = true ∧ 3 ≤ weight 0x0007#16 ∧ weight 0x0007#16 % 2 = 1 ∧
    3 ≤ weight 0x000F#16 ∧ weight 0x000F#16 % 2 = 0 ∧ validCodeword 0x000F#16 = true ∧
    3 ≤ weight 0x00E8#16 ∧ weight 0x00E8#16 % 2 = 0 ∧ validCodeword 0x00E8#16 = false := by decide
theorem witness_CorrectIsIdempotent :
    locateError 0x0A2F#16 = .bitPosition 7#4 ∧ validCodeword 0x0AAF#16 = true ∧
    weight (0x0A2F#16 ^^^ 0x0AAF#16) = 1 ∧
    ∀ p : Pos4, locateError 0x0A2E#16 ≠ .bitPosition p := by decide
theorem witness_StatusFields :
    locateError 0xFFFF#16 = .noError ∧ locateError 0xFFFE#16 = .bitPosition 0#4 ∧
    locateError 0x0003#16 = .multipleErrors := by decide
theorem witness_EveryStepKeepsTheStatusLegal :
    Inv (st 0x0A2F#16 0x5DD#11) ∧
    step ((st 0x0A2F#16 0x5DD#11).pushSample (.present 0x30000#18)) = .next (st 0x0AAF#16 0x5DD#11) ∧
    ¬ StatusLegal 0x003#11 :=
  ⟨⟨by decide, by decide⟩, rfl, fun h => absurd h.1 (by decide)⟩
theorem witness_LegalStatusPatterns :
    StatusLegal 0x1C2#11 ∧ stRes 0x1C2#11 ≠ 0b01#2 ∧ StatusLegal 0x7FD#11 ∧ stRes 0x7FD#11 = 0b01#2 :=
  ⟨⟨by decide, by decide⟩, by decide, ⟨by decide, by decide⟩, by decide⟩
theorem witness_EncodeErasesTheEvidence :
    0x0AAA#16 &&& PAYLOAD_MASK = (st 0x0AAF#16 0#11).w &&& PAYLOAD_MASK := by decide
theorem witness_PassThroughLooksLikeSuccess :
    locateError (st 0x0AAF#16 0#11).w = .noError ∧ locateError (st 0x0A2E#16 0#11).w = .multipleErrors := by
  decide
theorem witness_GuaranteeForAtMostTwoFlips :
    ReceivedWithFlips 0x0AAF#16 0x0AAF#16 0 ∧ ReceivedWithFlips 0x0AAF#16 0x0A2F#16 1 ∧
    ReceivedWithFlips 0x0AAF#16 0x0A2E#16 2 :=
  ⟨⟨by decide, by decide⟩, ⟨by decide, by decide⟩, ⟨by decide, by decide⟩⟩
theorem witness_MultipleErrorsIsAResult : locateError (st 0x8001#16 0#11).w = .multipleErrors := by decide
theorem witness_PackPlacesThePayload :
    ((0, 3) : Nat × Nat) ∈ [(0, 3), (1, 5), (2, 6), (3, 7), (4, 9), (5, 10), (6, 11), (7, 12), (8, 13),
      (9, 14), (10, 15)] := by decide
theorem witness_positions_at_the_boundary :
    singletonWord 15 = .ok 0x8000#16 ∧ singletonWord 16 = .error (.invalidPosition 16) ∧
    flipAt 0xFFFF#16 15 = .ok 0x7FFF#16 ∧ flipAt 0xFFFF#16 16 = .error (.invalidPosition 16) :=
  ⟨rfl, rfl, rfl, rfl⟩
theorem witness_operands_at_the_boundary :
    assemble 0#16 (.load 65535) = .ok (.load 0xFFFF#16) ∧
    assemble 0#16 (.load 65536) = .error (.operandTooWide 65536) ∧
    assemble 0#16 (.loadp 2047) = .ok (.load 0xFEE8#16) ∧
    assemble 0#16 (.loadp 2048) = .error (.payloadTooWide 2048) ∧
    (AsmCommand.loads 15).wellFormed = true ∧ assemble 0#16 .encode = .ok (.encode 0#16) :=
  ⟨rfl, rfl, rfl, rfl, rfl, rfl⟩
theorem witness_DriverSequenceRestoresTheWord :
    regs (step ((st 0#16 0#11).pushSample (.present 0x00AAA#18))) = some (0x0AAA#16, 0#11) := by decide

end Sys2Proof.Tests
end

section
/-! PROOFS. What each command answers, as one equation per command, and the statements on the state:
who writes `W`, the reset values, the outputs (spec/10_state.md). -/

namespace Sys2Proof.Machine

variable (imm : Word16) (s : State)

@[simp] theorem exec_load : exec (.load imm) s = .next (s.writeW imm) := rfl
@[simp] theorem exec_encode : exec (.encode imm) s = .next (s.writeW (encode s.w)) := rfl
@[simp] theorem exec_locate : exec (.locate imm) s = .next (s.writeST (status s.w)) := rfl
@[simp] theorem exec_correct :
    exec (.correct imm) s = .next ((s.writeST (status s.w)).writeW (correct s.w)) := rfl

/-- A command that changes `W` is LOAD, ENCODE or CORRECT: LOCATE writes `ST` only (R26). -/
theorem exec_changes_w {i : Instr} {s t : State} (h : exec i s = .next t) (hw : t.w ≠ s.w) :
    ∃ imm : Word16, i = .load imm ∨ i = .encode imm ∨ i = .correct imm := by
  obtain ⟨v, hi, -⟩ | ⟨v, hi, -⟩ | ⟨v, -, ht⟩ | ⟨v, hi, -⟩ := exec_cases h
  · exact ⟨v, .inl hi⟩
  · exact ⟨v, .inr (.inl hi)⟩
  · have keepsW : t.w = s.w := by rw [ht, State.writeST_w]
    exact absurd keepsW hw
  · exact ⟨v, .inr (.inr hi)⟩

end Sys2Proof.Machine

namespace Sys2Proof.Proofs

open Sys2Proof Sys2Proof.Machine

/-- Settles O16: of the three kinds of a block step, the idle one keeps `W`, and a command that changes
it is not LOCATE. -/
theorem onlyLoadEncodeCorrectResetWriteW : Obligations.OnlyLoadEncodeCorrectResetWriteW := by
  refine ⟨fun p s t h hw => ?_, fun v s => ⟨s.writeW v, exec_load v s, State.writeW_w s v, ?_⟩⟩
  · obtain ⟨hrst, -⟩ | ⟨-, hvalid, hexec⟩ | ⟨-, -, ht⟩ := blockStep_cases h
    · exact .inl hrst
    · exact .inr ⟨hvalid, exec_changes_w hexec hw⟩
    · exact absurd (congrArg State.w ht) hw
  · rw [State.dout_eq, State.writeW_w]

/-- The all-zero word has no error: its status is the reset value of `ST` (R31). -/
theorem status_zero : status RESET_W = RESET_ST := by decide

/-- Settles O1: the field values are facts about the two reset constants, and LOCATE after LOAD 0x0000
writes the status of the all-zero word. -/
theorem resetValues : Obligations.ResetValues := by
  refine ⟨rfl, rfl, by decide, by decide, by decide, by decide, by decide, by decide, by decide,
    by decide, status_zero.symm, fun imm s => ?_⟩
  have afterLocate : ((s.writeW RESET_W).writeST (status RESET_W)).st = State.reset.st := by
    rw [State.writeST_st, status_zero, State.reset_st]
  exact ⟨s.writeW RESET_W, (s.writeW RESET_W).writeST (status RESET_W), exec_load _ s,
    exec_locate imm _, rfl, afterLocate⟩

/-- Settles O7: the outputs read the registers, so each result stands on `dout` or `st` after the step
of its command. -/
theorem outputsAreTheRegisters : Obligations.OutputsAreTheRegisters := by
  refine ⟨fun s => ⟨State.dout_eq s, State.stOut_eq s⟩, fun imm s => ?_, fun imm s => ?_, fun imm s => ?_⟩
  · exact ⟨_, exec_encode imm s, by simp⟩
  · exact ⟨_, exec_locate imm s, by simp⟩
  · exact ⟨_, exec_correct imm s, by simp⟩

end Sys2Proof.Proofs
end

section
/-! PROOFS. The statement on the operand `imm` (spec/30_encoding.md R52). -/

namespace Sys2Proof.Proofs

open Sys2Proof Sys2Proof.Machine

/-- Settles O11: LOAD writes `imm`, and the answers of the other three, by their equations, are
functions of the state alone, so two values of `imm` share them. -/
theorem onlyLoadUsesImm : Obligations.OnlyLoadUsesImm := by
  refine ⟨fun v s => ⟨s.writeW v, exec_load v s, State.writeW_w s v⟩, fun a b s => ⟨?_, ?_, ?_⟩⟩
  · exact (exec_encode a s).trans (exec_encode b s).symm
  · exact (exec_locate a s).trans (exec_locate b s).symm
  · exact (exec_correct a s).trans (exec_correct b s).symm

end Sys2Proof.Proofs
end

section
/-! PROOFS. The XOR-reduction under `setBit`, masks and a cleared bit; the equations of a valid codeword
as vanishing XORs over the covers; what each of the six steps of `encode` does to each bit; and the
statements on the encoder (spec/40_encoder.md). -/

namespace Sys2Proof.Machine

/-! ### The XOR-reduction and single bits -/

theorem xorbits_flipBit (v : Word16) (p : Pos4) : xorbits (flipBit v p) = !xorbits v := by
  have single : xorbits (oneAt p) = true := by revert p; decide
  rw [flipBit, xorbits_xor, single, Bool.xor_true]

/-- Writing a bit is keeping the word or flipping that bit. -/
theorem setBit_eq_ite_flipBit (v : Word16) (p : Pos4) (b : Bool) :
    setBit v p b = if getBit v p = b then v else flipBit v p := by
  refine word_ext fun q => ?_
  rw [getBit_setBit]
  by_cases hq : q = p
  · subst hq
    by_cases hb : getBit v q = b
    · simp [hb]
    · simpa [hb, getBit_flipBit] using (Bool.eq_not.mpr (Ne.symm hb))
  · by_cases hb : getBit v p = b <;> simp [hq, hb, getBit_flipBit]

theorem xorbits_setBit (v : Word16) (p : Pos4) (b : Bool) :
    xorbits (setBit v p b) = (xorbits v ^^ getBit v p ^^ b) := by
  rw [setBit_eq_ite_flipBit]
  by_cases hb : getBit v p = b
  · simp [hb]
  · have differ : b = !getBit v p := Bool.eq_not.mpr (Ne.symm hb)
    rw [if_neg hb, xorbits_flipBit, differ]
    simp

theorem xorbits_and_not_oneAt (v : Word16) (p : Pos4) :
    xorbits (v &&& ~~~oneAt p) = (xorbits v ^^ getBit v p) := by
  have cleared : v &&& ~~~oneAt p = setBit v p false := by simp [setBit]
  rw [cleared, xorbits_setBit, Bool.xor_false]

/-- The parity of a word and all its bits but one give that bit. -/
theorem word_ext_of_xorbits {a b : Word16} {p : Pos4} (hx : xorbits a = xorbits b)
    (h : ∀ q, q ≠ p → getBit a q = getBit b q) : a = b := by
  have rewritten : a = setBit b p (getBit a p) := by
    refine word_ext fun q => ?_
    rw [getBit_setBit]
    by_cases hq : q = p
    · rw [if_pos hq, hq]
    · rw [if_neg hq, h q hq]
  rw [setBit_eq_ite_flipBit] at rewritten
  split at rewritten
  · exact rewritten
  · rw [rewritten, xorbits_flipBit] at hx
    exact absurd hx (Bool.not_ne_self _)

/-- The XOR of bits 15 down to 1. -/
theorem xorbits_extractLsb (v : Word16) :
    xorbits (v.extractLsb 15 1) = (xorbits v ^^ getBit v 0#4) := by
  rw [xorbits_word, show getBit v 0#4 = v.getLsbD 0 from rfl]
  simp only [xorbits, List.range, List.range.loop, List.foldl_cons, List.foldl_nil, Bool.false_xor,
    BitVec.getLsbD_extractLsb]
  cases v.getLsbD 0 <;> simp

/-- The XOR over a mask runs over the positions of the mask. -/
theorem xorbits_and (v m : Word16) :
    xorbits (v &&& m) =
      ((List.range 16).filter m.getLsbD).foldl (fun acc p => acc ^^ v.getLsbD p) false := by
  simp only [xorbits, BitVec.getLsbD_and, List.foldl_filter]
  congr 1
  funext acc p
  cases m.getLsbD p <;> simp

/-- A write to a position outside a mask does not show under the mask. -/
theorem setBit_and_of_notMem {m : Word16} {p : Pos4} (hp : getBit m p = false) (v : Word16) (b : Bool) :
    setBit v p b &&& m = v &&& m := by
  refine word_ext fun q => ?_
  rw [getBit_and, getBit_and, getBit_setBit]
  by_cases hq : q = p
  · rw [hq, hp, Bool.and_false, Bool.and_false]
  · rw [if_neg hq]

/-! ### The five equations of a valid codeword (R25) -/

theorem parityEquation_iff (w : Word16) :
    getBit w 0#4 = xorbits (w.extractLsb 15 1) ↔ xorbits w = false := by
  rw [xorbits_extractLsb]
  cases getBit w 0#4 <;> cases xorbits w <;> decide

/-- A control bit is the XOR of the rest of its cover exactly when the XOR over the cover vanishes. -/
theorem coverEquation_iff {m : Word16} {p : Pos4} (hp : getBit m p = true) (w : Word16) :
    getBit w p = xorbits (w &&& m &&& ~~~oneAt p) ↔ xorbits (w &&& m) = false := by
  rw [xorbits_and_not_oneAt, getBit_and, hp, Bool.and_true]
  cases getBit w p <;> cases xorbits (w &&& m) <;> decide

/-- Without its control bit a cover holds payload positions only, so each equation reads the payload. -/
theorem validCodeword_iff_payload (w : Word16) : validCodeword w = true ↔
    getBit w 1#4 = xorbits (w &&& PAYLOAD_MASK &&& COVER1) ∧
    getBit w 2#4 = xorbits (w &&& PAYLOAD_MASK &&& COVER2) ∧
    getBit w 4#4 = xorbits (w &&& PAYLOAD_MASK &&& COVER4) ∧
    getBit w 8#4 = xorbits (w &&& PAYLOAD_MASK &&& COVER8) ∧
    getBit w 0#4 = xorbits (w.extractLsb 15 1) := by
  have rest1 : COVER1 &&& ~~~oneAt 1#4 = PAYLOAD_MASK &&& COVER1 := by decide
  have rest2 : COVER2 &&& ~~~oneAt 2#4 = PAYLOAD_MASK &&& COVER2 := by decide
  have rest4 : COVER4 &&& ~~~oneAt 4#4 = PAYLOAD_MASK &&& COVER4 := by decide
  have rest8 : COVER8 &&& ~~~oneAt 8#4 = PAYLOAD_MASK &&& COVER8 := by decide
  simp only [validCodeword, Bool.and_eq_true, beq_iff_eq, and_assoc, BitVec.and_assoc, rest1, rest2,
    rest4, rest8]

/-- R25, the equivalent form: the XORs over the four covers and over the whole word vanish. -/
theorem validCodeword_iff_covers (w : Word16) : validCodeword w = true ↔
    xorbits (w &&& COVER1) = false ∧ xorbits (w &&& COVER2) = false ∧
    xorbits (w &&& COVER4) = false ∧ xorbits (w &&& COVER8) = false ∧ xorbits w = false := by
  rw [← coverEquation_iff (p := 1#4) (by decide), ← coverEquation_iff (p := 2#4) (by decide),
    ← coverEquation_iff (p := 4#4) (by decide), ← coverEquation_iff (p := 8#4) (by decide),
    ← parityEquation_iff]
  simp only [validCodeword, Bool.and_eq_true, beq_iff_eq, and_assoc]

/-! ### The syndrome as XOR trees -/

/-- One bit of the loop of R76: the XOR of the set positions whose index has that bit. -/
theorem getLsbD_foldl_index (w : Word16) (k : Nat) (l : List Nat) (x : Pos4) :
    (l.foldl (fun s p => if w.getLsbD p then s ^^^ BitVec.ofNat 4 p else s) x).getLsbD k =
      l.foldl (fun acc p => acc ^^ (w.getLsbD p && (BitVec.ofNat 4 p).getLsbD k)) (x.getLsbD k) := by
  induction l generalizing x with
  | nil => rfl
  | cons p l ih =>
    rw [List.foldl_cons, List.foldl_cons, ih]
    congr 1
    cases w.getLsbD p with
    | true => rw [if_pos rfl, BitVec.getLsbD_xor, Bool.true_and]
    | false => rw [if_neg Bool.false_ne_true, Bool.false_and, Bool.xor_false]

/-- Bit `k` of the syndrome is the XOR over the mask of the positions whose index has bit `k`. -/
theorem getLsbD_syndrome {m : Word16} {k : Nat}
    (hm : ∀ p ∈ List.range 16, m.getLsbD p = (BitVec.ofNat 4 p).getLsbD k) (w : Word16) :
    (syndrome w).getLsbD k = xorbits (w &&& m) := by
  rw [syndrome, getLsbD_foldl_index, xorbits, BitVec.getLsbD_zero]
  refine List.foldl_ext _ _ _ fun acc p hp => ?_
  rw [BitVec.getLsbD_and, hm p hp]

theorem syndrome_eq_zero_of_validCodeword {w : Word16} (h : validCodeword w = true) :
    syndrome w = 0#4 := by
  obtain ⟨even1, even2, even4, even8, -⟩ := (validCodeword_iff_covers w).mp h
  refine BitVec.eq_of_getLsbD_eq fun k hk => ?_
  rw [BitVec.getLsbD_zero]
  match k with
  | 0 => exact (getLsbD_syndrome (by decide) w).trans even1
  | 1 => exact (getLsbD_syndrome (by decide) w).trans even2
  | 2 => exact (getLsbD_syndrome (by decide) w).trans even4
  | 3 => exact (getLsbD_syndrome (by decide) w).trans even8

theorem locateError_of_validCodeword {w : Word16} (h : validCodeword w = true) :
    locateError w = .noError := by
  obtain ⟨-, -, -, -, even⟩ := (validCodeword_iff_covers w).mp h
  rw [locateError, syndrome_eq_zero_of_validCodeword h, parityMismatch, even]
  rfl

/-! ### The six steps of `encode`, bit by bit -/

/-- Step 1 is the payload mask: the complement of the check positions. -/
theorem encodeStep1_eq (w : Word16) : encodeStep1 w = w &&& PAYLOAD_MASK :=
  congrArg (w &&& ·) (by decide)

@[simp] theorem getBit_encodeStep1 (w : Word16) (q : Pos4) :
    getBit (encodeStep1 w) q = (getBit w q && getBit PAYLOAD_MASK q) := by
  rw [encodeStep1_eq, getBit_and]

section
variable (v : Word16) (q : Pos4)

@[simp] theorem getBit_encodeStep2 :
    getBit (encodeStep2 v) q = if q = 1#4 then xorbits (v &&& COVER1) else getBit v q :=
  getBit_setBit v _ q _

@[simp] theorem getBit_encodeStep3 :
    getBit (encodeStep3 v) q = if q = 2#4 then xorbits (v &&& COVER2) else getBit v q :=
  getBit_setBit v _ q _

@[simp] theorem getBit_encodeStep4 :
    getBit (encodeStep4 v) q = if q = 4#4 then xorbits (v &&& COVER4) else getBit v q :=
  getBit_setBit v _ q _

@[simp] theorem getBit_encodeStep5 :
    getBit (encodeStep5 v) q = if q = 8#4 then xorbits (v &&& COVER8) else getBit v q :=
  getBit_setBit v _ q _

@[simp] theorem getBit_encodeStep6 :
    getBit (encodeStep6 v) q = if q = 0#4 then xorbits v else getBit v q :=
  getBit_setBit v _ q _

end

/-! Each control bit is read from the payload: no earlier step wrote a position of its cover. -/

theorem getBit_one_after_step2 (w : Word16) :
    getBit (encodeStep2 (encodeStep1 w)) 1#4 = xorbits (w &&& PAYLOAD_MASK &&& COVER1) := by
  rw [getBit_encodeStep2, if_pos rfl, encodeStep1_eq]

theorem getBit_two_after_step3 (w : Word16) :
    getBit (encodeStep3 (encodeStep2 (encodeStep1 w))) 2#4 =
      xorbits (w &&& PAYLOAD_MASK &&& COVER2) := by
  rw [getBit_encodeStep3, if_pos rfl, encodeStep2, setBit_and_of_notMem (by decide), encodeStep1_eq]

theorem getBit_four_after_step4 (w : Word16) :
    getBit (encodeStep4 (encodeStep3 (encodeStep2 (encodeStep1 w)))) 4#4 =
      xorbits (w &&& PAYLOAD_MASK &&& COVER4) := by
  rw [getBit_encodeStep4, if_pos rfl, encodeStep3, setBit_and_of_notMem (by decide), encodeStep2,
    setBit_and_of_notMem (by decide), encodeStep1_eq]

theorem getBit_eight_after_step5 (w : Word16) :
    getBit (encodeStep5 (encodeStep4 (encodeStep3 (encodeStep2 (encodeStep1 w))))) 8#4 =
      xorbits (w &&& PAYLOAD_MASK &&& COVER8) := by
  rw [getBit_encodeStep5, if_pos rfl, encodeStep4, setBit_and_of_notMem (by decide), encodeStep3,
    setBit_and_of_notMem (by decide), encodeStep2, setBit_and_of_notMem (by decide), encodeStep1_eq]

/-- The XOR over the payload positions of each cover, written out (R61 to R64). -/
theorem xorbits_payload_covers (w : Word16) :
    xorbits (w &&& PAYLOAD_MASK &&& COVER1) = (getBit w 3#4 ^^ getBit w 5#4 ^^ getBit w 7#4 ^^
      getBit w 9#4 ^^ getBit w 11#4 ^^ getBit w 13#4 ^^ getBit w 15#4) ∧
    xorbits (w &&& PAYLOAD_MASK &&& COVER2) = (getBit w 3#4 ^^ getBit w 6#4 ^^ getBit w 7#4 ^^
      getBit w 10#4 ^^ getBit w 11#4 ^^ getBit w 14#4 ^^ getBit w 15#4) ∧
    xorbits (w &&& PAYLOAD_MASK &&& COVER4) = (getBit w 5#4 ^^ getBit w 6#4 ^^ getBit w 7#4 ^^
      getBit w 12#4 ^^ getBit w 13#4 ^^ getBit w 14#4 ^^ getBit w 15#4) ∧
    xorbits (w &&& PAYLOAD_MASK &&& COVER8) = (getBit w 9#4 ^^ getBit w 10#4 ^^ getBit w 11#4 ^^
      getBit w 12#4 ^^ getBit w 13#4 ^^ getBit w 14#4 ^^ getBit w 15#4) := by
  have positions1 : (List.range 16).filter (PAYLOAD_MASK &&& COVER1).getLsbD =
    [3, 5, 7, 9, 11, 13, 15] := by decide
  have positions2 : (List.range 16).filter (PAYLOAD_MASK &&& COVER2).getLsbD =
    [3, 6, 7, 10, 11, 14, 15] := by decide
  have positions4 : (List.range 16).filter (PAYLOAD_MASK &&& COVER4).getLsbD =
    [5, 6, 7, 12, 13, 14, 15] := by decide
  have positions8 : (List.range 16).filter (PAYLOAD_MASK &&& COVER8).getLsbD =
    [9, 10, 11, 12, 13, 14, 15] := by decide
  simp only [BitVec.and_assoc, xorbits_and, positions1, positions2, positions4, positions8,
    List.foldl_cons, List.foldl_nil, Bool.false_xor]
  exact ⟨rfl, rfl, rfl, rfl⟩

/-- Bit 0 is still 0 when step 6 reads the word. -/
theorem getBit_zero_after_step5 (w : Word16) :
    getBit (encodeStep5 (encodeStep4 (encodeStep3 (encodeStep2 (encodeStep1 w))))) 0#4 = false := by
  have cleared : getBit PAYLOAD_MASK 0#4 = false := by decide
  simp [cleared]

/-- Step 6 makes the weight even when bit 0 was 0. -/
theorem xorbits_encodeStep6 (v : Word16) : xorbits (encodeStep6 v) = getBit v 0#4 := by
  rw [encodeStep6, xorbits_setBit]
  cases xorbits v <;> cases getBit v 0#4 <;> rfl

/-! ### The encoded word -/

theorem xorbits_encode (w : Word16) : xorbits (encode w) = false :=
  (xorbits_encodeStep6 _).trans (getBit_zero_after_step5 w)

theorem getBit_encode_zero (w : Word16) :
    getBit (encode w) 0#4 = xorbits ((encode w).extractLsb 15 1) :=
  (parityEquation_iff _).mpr (xorbits_encode w)

/-- The control bits of the encoded word stay as steps 2 to 5 wrote them. -/
theorem getBit_encode_control (w : Word16) :
    getBit (encode w) 1#4 = xorbits (w &&& PAYLOAD_MASK &&& COVER1) ∧
    getBit (encode w) 2#4 = xorbits (w &&& PAYLOAD_MASK &&& COVER2) ∧
    getBit (encode w) 4#4 = xorbits (w &&& PAYLOAD_MASK &&& COVER4) ∧
    getBit (encode w) 8#4 = xorbits (w &&& PAYLOAD_MASK &&& COVER8) := by
  rw [← getBit_one_after_step2, ← getBit_two_after_step3, ← getBit_four_after_step4,
    ← getBit_eight_after_step5]
  simp [encode]

/-- A position is a check position or a payload position. -/
theorem position_cases (q : Pos4) :
    q = 0#4 ∨ q = 1#4 ∨ q = 2#4 ∨ q = 4#4 ∨ q = 8#4 ∨ getBit PAYLOAD_MASK q = true := by
  revert q; decide

theorem getBit_encode_payload (w : Word16) {q : Pos4} (hq : getBit PAYLOAD_MASK q = true) :
    getBit (encode w) q = getBit w q := by
  have notCheck : q ≠ 0#4 ∧ q ≠ 1#4 ∧ q ≠ 2#4 ∧ q ≠ 4#4 ∧ q ≠ 8#4 := by revert q; decide
  simp [encode, hq, notCheck]

theorem encode_and_payload (w : Word16) : encode w &&& PAYLOAD_MASK = w &&& PAYLOAD_MASK := by
  refine word_ext fun q => ?_
  rw [getBit_and, getBit_and]
  cases hq : getBit PAYLOAD_MASK q with
  | true => rw [getBit_encode_payload w hq]
  | false => rw [Bool.and_false, Bool.and_false]

theorem validCodeword_encode (w : Word16) : validCodeword (encode w) = true := by
  obtain ⟨bit1, bit2, bit4, bit8⟩ := getBit_encode_control w
  rw [validCodeword_iff_payload, encode_and_payload]
  exact ⟨bit1, bit2, bit4, bit8, getBit_encode_zero w⟩

/-- A valid codeword is left as it is: `encode` keeps its payload, recomputes the control bits that its
equations already give it, and both words have even weight. -/
theorem encode_of_validCodeword {w : Word16} (h : validCodeword w = true) : encode w = w := by
  obtain ⟨eq1, eq2, eq4, eq8, eq0⟩ := (validCodeword_iff_payload w).mp h
  obtain ⟨bit1, bit2, bit4, bit8⟩ := getBit_encode_control w
  have even : xorbits (encode w) = xorbits w :=
    (xorbits_encode w).trans ((parityEquation_iff w).mp eq0).symm
  refine word_ext_of_xorbits (p := 0#4) even fun q h0 => ?_
  obtain hq | rfl | rfl | rfl | rfl | hq := position_cases q
  · exact absurd hq h0
  · exact bit1.trans eq1.symm
  · exact bit2.trans eq2.symm
  · exact bit4.trans eq4.symm
  · exact bit8.trans eq8.symm
  · exact getBit_encode_payload w hq

theorem encode_encode (w : Word16) : encode (encode w) = encode w :=
  encode_of_validCodeword (validCodeword_encode w)

/-- The worked examples of R66. -/
theorem encode_examples : encode 0x0000#16 = 0x0000#16 ∧ encode 0xFFFF#16 = 0xFFFF#16 ∧
    encode 0x0AAA#16 = 0x0AAF#16 ∧ encode 0x8000#16 = 0x8117#16 := by decide

end Sys2Proof.Machine

namespace Sys2Proof.Proofs

open Sys2Proof Sys2Proof.Machine

/-- Settles O20: step 1 is the payload mask, read bit by bit; bit 0 stays cleared until step 6, which
leaves a word of even weight. -/
theorem encodeClearsThenSetsParity : Obligations.EncodeClearsThenSetsParity := by
  intro w
  have checkOff : ∀ q ∈ [0#4, 1#4, 2#4, 4#4, 8#4], getBit PAYLOAD_MASK q = false := by decide
  have payloadOn : ∀ q ∈ [3#4, 5#4, 6#4, 7#4, 9#4, 10#4, 11#4, 12#4, 13#4, 14#4, 15#4],
      getBit PAYLOAD_MASK q = true := by decide
  refine ⟨encodeStep1_eq w, encodeStep1_eq w, fun q hq => ?_, fun q hq => ?_,
    getBit_zero_after_step5 w, ?_, rfl, getBit_encode_zero w⟩
  · rw [getBit_encodeStep1, checkOff q hq, Bool.and_false]
  · rw [getBit_encodeStep1, payloadOn q hq, Bool.and_true]
  · rw [xorbits_extractLsb, getBit_zero_after_step5, Bool.xor_false]

/-- Settles O21: each step reads and writes as its equation on bits says; each control bit is the XOR
over the payload part of its cover, whose positions are then listed. -/
theorem controlBitsCoverThePayload : Obligations.ControlBitsCoverThePayload := by
  refine ⟨fun v => ⟨rfl, rfl, rfl, rfl⟩, fun w => ?_⟩
  obtain ⟨cover1, cover2, cover4, cover8⟩ := xorbits_payload_covers w
  obtain ⟨bit1, bit2, bit4, bit8⟩ := getBit_encode_control w
  have checkOff : getBit PAYLOAD_MASK 1#4 = false ∧ getBit PAYLOAD_MASK 2#4 = false ∧
    getBit PAYLOAD_MASK 4#4 = false ∧ getBit PAYLOAD_MASK 8#4 = false := by decide
  refine ⟨by simp [checkOff], by simp [checkOff], by simp [checkOff], by simp [checkOff],
    fun q hq => ?_, fun q hq => ?_, fun q hq => ?_, fun q hq => ?_, ?_, ?_, ?_, ?_, ?_, ?_, ?_, ?_⟩
  · rw [getBit_encodeStep2, if_neg hq]
  · rw [getBit_encodeStep3, if_neg hq]
  · rw [getBit_encodeStep4, if_neg hq]
  · rw [getBit_encodeStep5, if_neg hq]
  · exact (getBit_one_after_step2 w).trans cover1
  · exact bit1.trans (getBit_one_after_step2 w).symm
  · exact (getBit_two_after_step3 w).trans cover2
  · exact bit2.trans (getBit_two_after_step3 w).symm
  · exact (getBit_four_after_step4 w).trans cover4
  · exact bit4.trans (getBit_four_after_step4 w).symm
  · exact (getBit_eight_after_step5 w).trans cover8
  · exact bit8.trans (getBit_eight_after_step5 w).symm

/-- Settles O22: `encode` is defined as its six steps, none of which writes a payload position. -/
theorem encodeKeepsThePayload : Obligations.EncodeKeepsThePayload :=
  ⟨fun _ => rfl, encode_and_payload, encode_examples⟩

/-- Settles O25: the encoded word is a valid codeword, which has syndrome 0 and no mismatch. -/
theorem encodedWordsAreClean : Obligations.EncodedWordsAreClean := fun w =>
  have valid := validCodeword_encode w
  ⟨xorbits_encode w, syndrome_eq_zero_of_validCodeword valid, locateError_of_validCodeword valid, valid⟩

/-- Settles O13: the equation of ENCODE, with `encode` fixing the valid codewords, among them its own
results and the first two examples. -/
theorem encodeReplacesWByItsCode : Obligations.EncodeReplacesWByItsCode := by
  intro imm s
  have answers (w v : Word16) (h : encode w = v) :
      exec (.encode imm) { s with w := w } = .next { s with w := v } := by
    rw [exec_encode, h]; rfl
  obtain ⟨zeros, ones, worked, -⟩ := encode_examples
  exact ⟨rfl, (Laws.Fields.encode imm).1, by decide, exec_encode imm s,
    fun valid => answers s.w s.w (encode_of_validCodeword valid), answers _ _ (encode_encode s.w),
    answers _ _ zeros, answers _ _ ones, answers _ _ worked, validCodeword_encode s.w⟩

end Sys2Proof.Proofs
end

section
/-! PROOFS. The parity mismatch (spec/41_syndrome.md R75). -/

namespace Sys2Proof.Machine

/-- R75: the parity recomputed from bits 15 down to 1, against the stored bit 0. -/
theorem parityMismatch_eq_recomputed_xor_stored (w : Word16) :
    parityMismatch w = (xorbits (w.extractLsb 15 1) ^^ getBit w 0#4) := by
  rw [parityMismatch, xorbits_extractLsb, Bool.xor_assoc, Bool.xor_self, Bool.xor_false]

theorem parityMismatch_of_validCodeword {w : Word16} (h : validCodeword w = true) :
    parityMismatch w = false := by
  obtain ⟨-, -, -, -, even⟩ := (validCodeword_iff_covers w).mp h
  exact even

end Sys2Proof.Machine

namespace Sys2Proof.Proofs

open Sys2Proof Sys2Proof.Machine

/-- Settles O28: the mismatch is defined as the XOR of all 16 bits, which splits off bit 0; the last
equation of a valid codeword says that it vanishes. -/
theorem parityMismatchForms : Obligations.ParityMismatchForms :=
  ⟨fun w => ⟨rfl, parityMismatch_eq_recomputed_xor_stored w⟩, fun _ => parityMismatch_of_validCodeword⟩

end Sys2Proof.Proofs
end

section
/-! PROOFS. The syndrome as a linear map, and what one flipped bit does to it and to the parity mismatch
(spec/41_syndrome.md R76, R78). -/

namespace Sys2Proof.Machine

/-- The loop of R76 is linear. -/
theorem syndrome_xor (a b : Word16) : syndrome (a ^^^ b) = syndrome a ^^^ syndrome b := by
  have := foldl_index_xor (List.range 16) a.getLsbD b.getLsbD 0#4 0#4
  simpa only [syndrome, BitVec.getLsbD_xor, BitVec.xor_zero] using this

/-- The XOR of one index is that index. -/
theorem syndrome_oneAt (p : Pos4) : syndrome (oneAt p) = p := by
  revert p; decide

theorem syndrome_flipBit (w : Word16) (p : Pos4) : syndrome (flipBit w p) = syndrome w ^^^ p := by
  rw [flipBit, syndrome_xor, syndrome_oneAt]

theorem parityMismatch_flipBit (w : Word16) (p : Pos4) :
    parityMismatch (flipBit w p) = !parityMismatch w :=
  xorbits_flipBit w p

end Sys2Proof.Machine
end

section
/-! PROOFS. Each result of `locateError` as a condition on syndrome and mismatch, what `correct` does on
each, the fields of `status`, and the statements on LOCATE and CORRECT (spec/42_locate_correct.md). -/

namespace Sys2Proof.Machine

/-! ### The decision (R86) -/

section
variable (w : Word16)

/-- The three results with what syndrome and mismatch are on each. -/
theorem locateError_cases :
    (syndrome w = 0#4 ∧ parityMismatch w = false ∧ locateError w = .noError) ∨
    (parityMismatch w = true ∧ locateError w = .bitPosition (syndrome w)) ∨
    (syndrome w ≠ 0#4 ∧ parityMismatch w = false ∧ locateError w = .multipleErrors) :=
  locate_cases (syndrome w) (parityMismatch w)

theorem locateError_eq_noError_iff :
    locateError w = .noError ↔ syndrome w = 0#4 ∧ parityMismatch w = false := by
  obtain ⟨hs, hm, hr⟩ | ⟨hm, hr⟩ | ⟨hs, hm, hr⟩ := locateError_cases w
  · simp [hs, hm, hr]
  · simp [hm, hr]
  · simp [hs, hr]

theorem locateError_eq_bitPosition_iff (p : Pos4) :
    locateError w = .bitPosition p ↔ parityMismatch w = true ∧ syndrome w = p := by
  obtain ⟨-, hm, hr⟩ | ⟨hm, hr⟩ | ⟨-, hm, hr⟩ := locateError_cases w
  · simp [hm, hr]
  · simp [hm, hr]
  · simp [hm, hr]

theorem locateError_eq_multipleErrors_iff :
    locateError w = .multipleErrors ↔ syndrome w ≠ 0#4 ∧ parityMismatch w = false := by
  obtain ⟨hs, -, hr⟩ | ⟨hm, hr⟩ | ⟨hs, hm, hr⟩ := locateError_cases w
  · simp [hs, hr]
  · simp [hm, hr]
  · simp [hs, hm, hr]

end

/-- One flip of a valid codeword: the syndrome becomes the position and the mismatch 1. -/
theorem locateError_flipBit_of_validCodeword {c : Word16} (h : validCodeword c = true) (p : Pos4) :
    locateError (flipBit c p) = .bitPosition p := by
  rw [locateError_eq_bitPosition_iff, parityMismatch_flipBit, parityMismatch_of_validCodeword h,
    syndrome_flipBit, syndrome_eq_zero_of_validCodeword h, BitVec.zero_xor]
  exact ⟨rfl, rfl⟩

/-! ### `correct` (R89) -/

section
variable {w : Word16}

theorem correct_of_noError (h : locateError w = .noError) : correct w = w := by
  rw [correct, h]

theorem correct_of_multipleErrors (h : locateError w = .multipleErrors) : correct w = w := by
  rw [correct, h]

theorem correct_of_bitPosition {p : Pos4} (h : locateError w = .bitPosition p) :
    correct w = flipBit w p := by
  rw [correct, h]

theorem correct_of_validCodeword (h : validCodeword w = true) : correct w = w :=
  correct_of_noError (locateError_of_validCodeword h)

/-- R93: flipping the located bit cancels the syndrome and the mismatch. -/
theorem locateError_correct_of_bitPosition {p : Pos4} (h : locateError w = .bitPosition p) :
    locateError (correct w) = .noError := by
  obtain ⟨hm, hs⟩ := (locateError_eq_bitPosition_iff w p).mp h
  rw [correct_of_bitPosition h, locateError_eq_noError_iff, syndrome_flipBit, parityMismatch_flipBit,
    hm, hs, BitVec.xor_self]
  exact ⟨rfl, rfl⟩

end

/-- R93: no located bit is left after `correct`. -/
theorem locateError_correct (w : Word16) :
    locateError (correct w) = .noError ∨ locateError (correct w) = .multipleErrors := by
  cases h : locateError w with
  | noError => exact .inl (by rw [correct_of_noError h, h])
  | bitPosition p => exact .inl (locateError_correct_of_bitPosition h)
  | multipleErrors => exact .inr (by rw [correct_of_multipleErrors h, h])

theorem correct_correct (w : Word16) : correct (correct w) = correct w := by
  obtain h | h := locateError_correct w
  · exact correct_of_noError h
  · exact correct_of_multipleErrors h

theorem correct_flipBit_of_validCodeword {c : Word16} (h : validCodeword c = true) (p : Pos4) :
    correct (flipBit c p) = c := by
  rw [correct_of_bitPosition (locateError_flipBit_of_validCodeword h p), flipBit_flipBit]

/-! ### The status word (R94) -/

/-- The number of a packed status word: each field shifted to its place. -/
theorem toNat_packStatus (m : Bool) (s p : Pos4) (r : BitVec 2) :
    (packStatus m s p r).toNat =
      m.toNat <<< 10 ||| s.toNat <<< 6 ||| p.toNat <<< 2 ||| r.toNat := by
  simp only [packStatus, BitVec.toNat_append, BitVec.toNat_ofBool, Nat.shiftLeft_or_distrib,
    ← Nat.shiftLeft_add]

section
variable (w : Word16)

@[simp] theorem stPerr_status : stPerr (status w) = parityMismatch w := stPerr_packStatus _ _ _ _
@[simp] theorem stSyn_status : stSyn (status w) = syndrome w := stSyn_packStatus _ _ _ _
@[simp] theorem stPos_status : stPos (status w) = posCode (locateError w) := stPos_packStatus _ _ _ _
@[simp] theorem stRes_status : stRes (status w) = resCode (locateError w) := stRes_packStatus _ _ _ _

end

theorem status_of_validCodeword {w : Word16} (h : validCodeword w = true) : status w = 0x000#11 := by
  rw [status, locateError_of_validCodeword h, parityMismatch_of_validCodeword h,
    syndrome_eq_zero_of_validCodeword h]
  rfl

/-- The examples of R94. -/
theorem status_examples : status 0x0AAF#16 = 0x000#11 ∧ status 0x0A2F#16 = 0x5DD#11 ∧
    status 0x0A2E#16 = 0x1C2#11 ∧ status 0x0AAE#16 = 0x401#11 := by decide

/-- R96: the class 0b01 says that the bit `pos` names is flipped. -/
theorem correct_eq_flipBit_stPos {w : Word16} (h : stRes (status w) = 0b01#2) :
    correct w = flipBit w (stPos (status w)) := by
  rw [stRes_status] at h
  rw [stPos_status]
  cases hr : locateError w with
  | noError => rw [hr] at h; exact absurd h (by decide)
  | bitPosition p => exact correct_of_bitPosition hr
  | multipleErrors => rw [hr] at h; exact absurd h (by decide)

/-- R96: every other class says that the word is passed through. -/
theorem correct_eq_self_of_stRes_ne {w : Word16} (h : stRes (status w) ≠ 0b01#2) : correct w = w := by
  rw [stRes_status] at h
  cases hr : locateError w with
  | noError => exact correct_of_noError hr
  | bitPosition p => rw [hr] at h; exact absurd rfl h
  | multipleErrors => exact correct_of_multipleErrors hr

end Sys2Proof.Machine

namespace Sys2Proof.Proofs

open Sys2Proof Sys2Proof.Machine

/-- Settles O35: an encoded word is a valid codeword, and one flip of a valid codeword is located, so
`correct` flips the same bit back. -/
theorem singleErrorsAreCorrected : Obligations.SingleErrorsAreCorrected :=
  ⟨fun d => locateError_of_validCodeword (validCodeword_encode (pack d)),
    fun w => locateError_of_validCodeword (validCodeword_encode w),
    fun _ p valid => correct_flipBit_of_validCodeword valid p,
    fun _ p valid => locateError_flipBit_of_validCodeword valid p⟩

/-- Settles O39: each field reads back what `status` packs, and the codes are read off the class. -/
theorem statusFields : Obligations.StatusFields := by
  refine ⟨fun w => ⟨toNat_packStatus _ _ _ _, stPerr_status w, stSyn_status w, fun hr => ?_,
    fun p hr => ?_, fun hr => ?_⟩, status_examples⟩
  · rw [stRes_status, stPos_status, hr]; exact ⟨rfl, rfl⟩
  · obtain ⟨-, hs⟩ := (locateError_eq_bitPosition_iff w p).mp hr
    rw [stRes_status, stPos_status, hr]
    exact ⟨rfl, rfl, hs.symm⟩
  · rw [stRes_status, stPos_status, hr]; exact ⟨rfl, rfl⟩

/-- Settles O15: the equation of CORRECT; the class in `ST` decides what happened to `W`, and no located
bit is left for a second CORRECT. -/
theorem correctFlipsTheLocatedBit : Obligations.CorrectFlipsTheLocatedBit := by
  intro imm s
  have answers (w v : Word16) (x y : StatusWord) (hw : correct w = v) (hx : status w = x) :
      exec (.correct imm) { s with w := w, st := y } = .next { s with w := v, st := x } := by
    rw [exec_correct, hw, hx]; rfl
  have passes (h : stRes (status s.w) = 0b00#2 ∨ stRes (status s.w) = 0b10#2) : correct s.w = s.w := by
    refine correct_eq_self_of_stRes_ne ?_
    obtain h | h := h <;> rw [h] <;> decide
  have reported (h : locateError s.w = .multipleErrors) : stRes (status s.w) = 0b10#2 := by
    rw [stRes_status, h]; rfl
  have worked : correct 0x0A2F#16 = 0x0AAF#16 := by decide
  obtain ⟨-, workedStatus, -, -⟩ := status_examples
  exact ⟨(Laws.Fields.correct imm).1, by decide, exec_correct imm s, correct_eq_flipBit_stPos, passes,
    fun valid => answers s.w s.w _ s.st (correct_of_validCodeword valid) (status_of_validCodeword valid),
    fun h => ⟨correct_of_multipleErrors h, reported h⟩, correct_of_bitPosition,
    answers _ _ _ _ (correct_correct s.w) rfl, locateError_correct s.w,
    answers _ _ _ s.st worked workedStatus⟩

/-- Settles O14: the equation of LOCATE, whose result depends on `W` only, so a second LOCATE writes the
same status. -/
theorem locateRecordsTheStatus : Obligations.LocateRecordsTheStatus := by
  intro imm s
  have flippedParity : locateError 0x0001#16 = .bitPosition 0#4 :=
    locateError_flipBit_of_validCodeword (c := 0x0000#16) (by decide) 0#4
  obtain ⟨oddWeight, noIndex⟩ := (locateError_eq_bitPosition_iff _ _).mp flippedParity
  have singleClass : stRes (status 0x0001#16) = 0b01#2 := by rw [stRes_status, flippedParity]; rfl
  have worked : exec (.locate imm) { s with w := 0x0A2F#16 } =
      .next { s with w := 0x0A2F#16, st := 0x5DD#11 } := by
    obtain ⟨-, workedStatus, -, -⟩ := status_examples
    rw [exec_locate, workedStatus]; rfl
  exact ⟨(Laws.Fields.locate imm).1, by decide, exec_locate imm s, exec_locate imm _,
    locateError_of_validCodeword (by decide), locateError_of_validCodeword (by decide), flippedParity,
    (stSyn_status _).trans noIndex, singleClass, (stPerr_status _).trans oddWeight, worked,
    by decide, by decide, by decide, by decide⟩

/-- Settles O32: the three results as conditions on syndrome and mismatch. -/
theorem locateDecision : Obligations.LocateDecision := fun w =>
  ⟨(locateError_eq_noError_iff w).mpr,
    fun mismatch => (locateError_eq_bitPosition_iff w _).mpr ⟨mismatch, rfl⟩,
    (locateError_eq_multipleErrors_iff w).mpr⟩

/-- Settles O34: `correct` on each result of `locateError`. -/
theorem correctPassesThroughOrFlips : Obligations.CorrectPassesThroughOrFlips := fun _ =>
  ⟨correct_of_noError, correct_of_multipleErrors, fun _ => correct_of_bitPosition⟩

end Sys2Proof.Proofs
end

section
/-! PROOFS. The decoder on encoded commands (spec/30_encoding.md R50, R51), so that a command the host
issues is the command the block runs. -/

namespace Sys2Proof.Machine

theorem decodeCmd_encodeCmd (i : Instr) : decodeCmd (encodeCmd i) = i := by
  have fields : Laws.Fields.Statement i := by
    cases i with
    | load imm => exact Laws.Fields.load imm
    | encode imm => exact Laws.Fields.encode imm
    | locate imm => exact Laws.Fields.locate imm
    | correct imm => exact Laws.Fields.correct imm
  obtain ⟨hop, himm⟩ := fields
  rw [decodeCmd, hop, himm]
  cases i <;> rfl

/-- A presented command runs (R50). -/
theorem blockStep_present_encodeCmd (i : Instr) (s : State) :
    blockStep (.present (encodeCmd i)) s = exec i s := by
  rw [blockStep, PortIn.present, portEvent_command, decodeCmd_encodeCmd]

/-- The word of LOAD: `op` is 00, so the word is its operand. -/
theorem encodeCmd_load (v : Word16) : encodeCmd (.load v) = v.setWidth 18 :=
  (BitVec.setWidth_eq_append (by decide)).symm

end Sys2Proof.Machine
end

section
/-! PROOFS. LOAD, the payload positions, the positions a host asks for, and the driver's sequence
(spec/43_load_and_payload.md). -/

namespace Sys2Proof.Machine

/-! ### The payload positions (R101, R102) -/

/-- The `i`-th payload position counted from the lowest (R101): 3, then 5 to 7, then 9 to 15. -/
def payloadPos (i : Nat) : Nat := if i < 1 then 3 else if i < 4 then i + 4 else i + 5

/-- Every position of `PAYLOAD_MASK` is counted. -/
theorem exists_payloadPos {q : Pos4} (hq : getBit PAYLOAD_MASK q = true) :
    ∃ i < 11, q.toNat = payloadPos i := by
  revert q; decide

/-- Each of the eleven positions lies in the run of one shifted field of `pack`; the other
two fields are 0 there. -/
theorem getLsbD_pack_payloadPos (d : Payload) {i : Nat} (hi : i < 11) :
    (pack d).getLsbD (payloadPos i) = d.getLsbD i := by
  interval_cases i <;> simp [pack, payloadPos]

theorem getBit_pack_of_notPayload (d : Payload) {q : Pos4} (hq : getBit PAYLOAD_MASK q = false) :
    getBit (pack d) q = false := by
  have isCheck : q.toNat ∈ [0, 1, 2, 4, 8] := by revert q; decide
  have cleared : ∀ p ∈ [0, 1, 2, 4, 8], (pack d).getLsbD p = false := by simp [pack]
  exact cleared _ isCheck

/-- The three fields of `unpack` hold the three runs of payload positions. -/
theorem getLsbD_unpack (w : Word16) {i : Nat} (hi : i < 11) :
    (unpack w).getLsbD i = w.getLsbD (payloadPos i) := by
  have fields : (unpack w).getLsbD i =
      if i < 1 then (w.extractLsb 3 3).getLsbD i
      else if i - 1 < 3 then (w.extractLsb 7 5).getLsbD (i - 1)
      else (w.extractLsb 15 9).getLsbD (i - 1 - 3) :=
    BitVec.getLsbD_append.trans (congrArg (ite _ _) BitVec.getLsbD_append)
  rw [fields, payloadPos]
  simp only [BitVec.getLsbD_extractLsb]
  by_cases h1 : i < 1
  · obtain rfl : i = 0 := by omega
    simp
  · by_cases h4 : i < 4
    · have position : 5 + (i - 1) = i + 4 := by omega
      have inRun : i - 1 < 3 := by omega
      simp [h1, h4, inRun, position]
    · have position : 9 + (i - 1 - 3) = i + 5 := by omega
      have inRun : ¬ i - 1 < 3 ∧ i - 1 - 3 < 7 := by omega
      simp [h1, h4, inRun, position]

theorem unpack_pack (d : Payload) : unpack (pack d) = d := by
  refine BitVec.eq_of_getLsbD_eq fun i hi => ?_
  rw [getLsbD_unpack _ hi, getLsbD_pack_payloadPos d hi]

theorem pack_unpack (w : Word16) : pack (unpack w) = w &&& PAYLOAD_MASK := by
  refine word_ext fun q => ?_
  rw [getBit_and]
  cases hq : getBit PAYLOAD_MASK q with
  | true =>
    obtain ⟨i, hi, position⟩ := exists_payloadPos hq
    rw [Bool.and_true, getBit, getBit, position, getLsbD_pack_payloadPos _ hi, getLsbD_unpack w hi]
  | false => rw [Bool.and_false, getBit_pack_of_notPayload _ hq]

/-- A packed payload lies under the payload mask. -/
theorem pack_and_payload (d : Payload) : pack d &&& PAYLOAD_MASK = pack d := by
  rw [← pack_unpack, unpack_pack]

theorem pack_and_check (d : Payload) : pack d &&& CHECK_MASK = 0#16 := by
  have disjoint : PAYLOAD_MASK &&& CHECK_MASK = 0#16 := by decide
  rw [← pack_and_payload, BitVec.and_assoc, disjoint, BitVec.and_zero]

/-! ### Requested positions (R103, R104, R112) -/

section
variable {p : Nat}

theorem checkedPosition_of_lt (h : p < 16) : checkedPosition p = .ok (BitVec.ofNat 4 p) := if_pos h

theorem checkedPosition_of_le (h : 16 ≤ p) : checkedPosition p = .error (.invalidPosition p) :=
  if_neg (Nat.not_lt.mpr h)

theorem oneAt_ofNat (h : p < 16) : oneAt (BitVec.ofNat 4 p) = 1#16 <<< p := by
  rw [oneAt, BitVec.toNat_ofNat, Nat.mod_eq_of_lt h]

theorem singletonWord_of_lt (h : p < 16) : singletonWord p = .ok (1#16 <<< p) := by
  rw [singletonWord, checkedPosition_of_lt h, ← oneAt_ofNat h]

theorem singletonWord_of_le (h : 16 ≤ p) : singletonWord p = .error (.invalidPosition p) := by
  rw [singletonWord, checkedPosition_of_le h]

theorem flipAt_of_lt (w : Word16) (h : p < 16) : flipAt w p = .ok (w ^^^ (1#16 <<< p)) := by
  rw [flipAt, checkedPosition_of_lt h, ← oneAt_ofNat h]
  rfl

theorem flipAt_of_le (w : Word16) (h : 16 ≤ p) : flipAt w p = .error (.invalidPosition p) := by
  rw [flipAt, checkedPosition_of_le h]

theorem assemble_flip_of_lt (w : Word16) (h : p < 16) :
    assemble w (.flip p) = .ok (.load (w ^^^ (1#16 <<< p))) := by
  rw [assemble, flipAt_of_lt w h]

theorem assemble_flip_of_le (w : Word16) (h : 16 ≤ p) :
    assemble w (.flip p) = .error (.invalidPosition p) := by
  rw [assemble, flipAt_of_le w h]

end

theorem weight_oneAt (q : Pos4) : weight (oneAt q) = 1 := by
  revert q; decide

/-! ### One action of the host (R56, R121) -/

section
variable {c : AsmCommand} {s : State}

theorem act_issue {i : Instr} {t : State} (hc : assemble s.w c = .ok i) (ht : exec i s = .next t) :
    act (.issue c) s = .ok t := by
  simp [act, sampleOf, hc, blockStep_present_encodeCmd, ht]

theorem act_issue_of_refused {e : HostError} (hc : assemble s.w c = .error e) :
    act (.issue c) s = .error (.request e) := by
  simp [act, sampleOf, hc]

end

section
variable (s : State)

theorem act_issue_load (v : Word16) : act (.issue (.load v.toNat)) s = .ok (s.writeW v) := by
  have assembled : assemble s.w (.load v.toNat) = .ok (.load v) := by
    rw [assemble, if_pos v.isLt, BitVec.ofNat_toNat, BitVec.setWidth_eq]
  exact act_issue assembled (exec_load v s)

theorem act_issue_encode : act (.issue .encode) s = .ok (s.writeW (encode s.w)) :=
  act_issue rfl (exec_encode 0#16 s)

theorem act_issue_locate : act (.issue .locate) s = .ok (s.writeST (status s.w)) :=
  act_issue rfl (exec_locate 0#16 s)

theorem act_issue_correct :
    act (.issue .correct) s = .ok ((s.writeST (status s.w)).writeW (correct s.w)) :=
  act_issue rfl (exec_correct 0#16 s)

theorem act_issue_flip (q : Pos4) :
    act (.issue (.flip q.toNat)) s = .ok (s.writeW (flipBit s.w q)) :=
  act_issue (assemble_flip_of_lt s.w q.isLt) (exec_load _ s)

end

/-! ### Sessions and the driver's sequence (R106) -/

theorem session_cons {a : HostAction} {s t : State} (h : act a s = .ok t) (as : List HostAction) :
    session (a :: as) s = session as t := by
  rw [session, h]

theorem session_append {as : List HostAction} {s t : State} (h : session as s = .ok t)
    (bs : List HostAction) : session (as ++ bs) s = session bs t := by
  induction as generalizing s with
  | nil => injection h with h; rw [List.nil_append, h]
  | cons a as ih =>
    cases ha : act a s with
    | error e => rw [session, ha] at h; cases h
    | ok r =>
      rw [session_cons ha] at h
      rw [List.cons_append, session_cons ha, ih h]

/-- LOAD v; ENCODE. -/
theorem session_sendActions (v : Word16) (s : State) :
    session (sendActions v) s = .ok (s.writeW (encode v)) := by
  rw [sendActions, session_cons (act_issue_load s v), session_cons (act_issue_encode _)]
  rfl

/-- LOCATE; CORRECT: both record the status of the same word. -/
theorem session_locate_correct (s : State) : session [.issue .locate, .issue .correct] s =
    .ok ((s.writeST (status s.w)).writeW (correct s.w)) := by
  rw [session_cons (act_issue_locate s), session_cons (act_issue_correct _)]
  rfl

/-- FLIP q; LOCATE; CORRECT. -/
theorem session_flip_locate_correct (q : Pos4) (s : State) :
    session [.issue (.flip q.toNat), .issue .locate, .issue .correct] s =
      .ok ((s.writeST (status (flipBit s.w q))).writeW (correct (flipBit s.w q))) := by
  rw [session_cons (act_issue_flip s q), session_locate_correct]
  rfl

/-- The host reads the LocationResult back from the status word (R57). -/
theorem readLocation_status (w : Word16) : readLocation (status w) = some (locateError w) := by
  rw [readLocation, stRes_status, stPos_status]
  cases locateError w <;> rfl

/-- What the driver's second half does to a valid codeword: `W` ends as it was, and `ST` locates the
flipped position, or nothing when none was flipped. -/
theorem session_receiveActions {t : State} (valid : validCodeword t.w = true) (p : Option Pos4) :
    ∃ u : State, session (receiveActions p) t = .ok u ∧ u.w = t.w ∧
      readLocation u.st = some (p.elim .noError .bitPosition) := by
  cases p with
  | none =>
    refine ⟨_, session_locate_correct t, correct_of_validCodeword valid, ?_⟩
    rw [State.writeW_st, State.writeST_st, readLocation_status, locateError_of_validCodeword valid]
    rfl
  | some q =>
    refine ⟨_, session_flip_locate_correct q t, correct_flipBit_of_validCodeword valid q, ?_⟩
    rw [State.writeW_st, State.writeST_st, readLocation_status,
      locateError_flipBit_of_validCodeword valid]
    rfl

end Sys2Proof.Machine

namespace Sys2Proof.Proofs

open Sys2Proof Sys2Proof.Machine

/-- Settles O49: `pack` and `unpack` read and write the same eleven positions, and `pack` is 0 at the
others. -/
theorem unpackInvertsPack : Obligations.UnpackInvertsPack :=
  ⟨unpack_pack, pack_unpack, fun w => getLsbD_unpack w (i := 0) (by decide), by decide⟩

/-- Settles O50: the check of the position decides, and `1 << p` is the power of two with that bit. -/
theorem singletonValidity : Obligations.SingletonValidity := by
  refine ⟨fun p => singletonWord_of_le, fun p hp => ⟨1#16 <<< p, singletonWord_of_lt hp, rfl, ?_, ?_⟩⟩
  · rw [← oneAt_ofNat hp, weight_oneAt]
  · intro q
    rw [← BitVec.twoPow_eq, BitVec.getLsbD_twoPow]
    simp [hp, eq_comm]

/-- Settles O51: FLIP assembles to the LOAD of the flipped word, or to nothing when the position is
refused, and then no step is taken. -/
theorem flipRequest : Obligations.FlipRequest :=
  ⟨fun _ w hp => flipAt_of_lt w hp,
    fun _ s hp => act_issue (assemble_flip_of_lt s.w hp) (exec_load _ s),
    fun _ s hp => act_issue_of_refused (assemble_flip_of_le s.w hp)⟩

/-- Settles O54: the first half leaves a valid codeword, from which the second half recovers. -/
theorem driverSequenceRestoresTheWord : Obligations.DriverSequenceRestoresTheWord := by
  intro s v p
  have sent := session_sendActions v s
  have valid : validCodeword (s.writeW (encode v)).w = true := validCodeword_encode v
  obtain ⟨u, received, hw, located⟩ := session_receiveActions valid p
  refine ⟨_, u, sent, rfl, received, (session_append sent _).trans received, hw, ?_⟩
  cases p <;> exact located

/-- Settles O12: the equation of LOAD, and its word, whose `op` is 00. -/
theorem loadReplacesW : Obligations.LoadReplacesW := by
  intro v s
  have word : encodeCmd (.load v) = 0x00000#18 ||| v.setWidth 18 := by
    rw [encodeCmd_load, BitVec.zero_or]
  exact ⟨word, exec_load v s, exec_load s.w s, by decide, exec_load 0x0AAA#16 s⟩

/-- Settles O48: the listed pairs are the payload positions in ascending order. -/
theorem packPlacesThePayload : Obligations.PackPlacesThePayload := by
  refine ⟨fun d i p hip => ?_, pack_and_check, by decide, by decide, by decide, by decide, by decide,
    by decide⟩
  have listed : ∀ x ∈ [(0, 3), (1, 5), (2, 6), (3, 7), (4, 9), (5, 10), (6, 11), (7, 12), (8, 13),
      (9, 14), (10, 15)], x.1 < 11 ∧ x.2 = payloadPos x.1 := by decide
  obtain ⟨hi, rfl⟩ : i < 11 ∧ p = payloadPos i := listed _ hip
  exact getLsbD_pack_payloadPos d hi

end Sys2Proof.Proofs
end

section
/-! PROOFS. Every command, sample and step answers a next state, and MultipleErrors is a result that
changes nothing but `ST` (spec/60_exceptions.md R110, R111). -/

namespace Sys2Proof.Machine

/-! ### Completion (R110) -/

theorem exec_completes (i : Instr) (s : State) : ∃ t : State, exec i s = .next t := by
  cases i with
  | load v => exact ⟨_, exec_load v s⟩
  | encode v => exact ⟨_, exec_encode v s⟩
  | locate v => exact ⟨_, exec_locate v s⟩
  | correct v => exact ⟨_, exec_correct v s⟩

theorem blockStep_completes (p : PortIn) (s : State) : ∃ t : State, blockStep p s = .next t := by
  rw [blockStep]
  cases portEvent p with
  | reset => exact ⟨s.resetRegs, rfl⟩
  | command i => exact exec_completes i s
  | idle => exact ⟨s, rfl⟩

/-! ### MultipleErrors as a result (R111) -/

/-- The later of two writes of `ST` stands. -/
@[simp] theorem State.writeST_writeST (s : State) (x y : StatusWord) :
    (s.writeST x).writeST y = s.writeST y := rfl

/-- Writing `W` with its own value changes nothing. -/
@[simp] theorem State.writeW_w_self (s : State) : s.writeW s.w = s := rfl

/-- LOCATE keeps `W`, so the status it wrote is the status a second LOCATE writes (R95). -/
theorem exec_locate_after_locate (imm : Word16) (s : State) :
    exec (.locate imm) (s.writeST (status s.w)) = .next (s.writeST (status s.w)) := by
  rw [exec_locate, State.writeST_w, State.writeST_writeST]

/-- On a word with MultipleErrors `correct` passes `W` through, so CORRECT answers what LOCATE does. -/
theorem exec_correct_eq_exec_locate {s : State} (h : locateError s.w = .multipleErrors)
    (a b : Word16) : exec (.correct b) s = exec (.locate a) s := by
  have keepsW : (s.writeST (status s.w)).writeW (correct s.w) = s.writeST (status s.w) := by
    rw [correct_of_multipleErrors h]
    exact State.writeW_w_self (s.writeST (status s.w))
  rw [exec_correct, exec_locate, keepsW]

end Sys2Proof.Machine

namespace Sys2Proof.Proofs

open Sys2Proof Sys2Proof.Machine

/-- Settles O47: both commands write `status(W)` and keep `W`, before and after, because the state they
answer holds the same word. -/
theorem multipleErrorsIsAResult : Obligations.MultipleErrorsIsAResult := by
  intro a b s h
  have again : exec (.locate a) (s.writeST (status s.w)) = .next (s.writeST (status s.w)) :=
    exec_locate_after_locate a s
  have reported : stRes (status s.w) = 0b10#2 := by rw [stRes_status, h]; rfl
  exact ⟨s.writeST (status s.w), exec_locate a s,
    (exec_correct_eq_exec_locate h a b).trans (exec_locate a s), reported,
    State.writeST_w s _, State.writeST_inputs s _, again,
    (exec_correct_eq_exec_locate (s := s.writeST (status s.w)) h a b).trans again⟩

/-- Settles O6: the commands complete by their equations, so the block completes on every sample, and
a step is the block on the next sample. -/
theorem everyStepCompletes : Obligations.EveryStepCompletes :=
  ⟨exec_completes, blockStep_completes, fun s => blockStep_completes s.nextSample s.dropSample⟩

end Sys2Proof.Proofs
end

section
/-! PROOFS. Reset, who writes `ST` and when it is stale, ENCODE on a received word, the pass-through of
CORRECT, and the guarantee for at most two flipped positions (spec/70_reset_and_hazards.md). -/

namespace Sys2Proof.Machine

/-! ### The reset step (R125) -/

/-- `rst` wins over whatever else stands on the ports. -/
theorem blockStep_of_rst {p : PortIn} (h : p.rst = true) (s : State) :
    blockStep p s = .next s.resetRegs := by
  obtain ⟨rst, valid, c⟩ := p
  obtain rfl : rst = true := h
  rw [blockStep, portEvent_reset]

/-! ### Who writes `ST` (R128) -/

/-- A command that changes `ST` is LOCATE or CORRECT: LOAD and ENCODE write `W` only. -/
theorem exec_changes_st {i : Instr} {s t : State} (h : exec i s = .next t) (hst : t.st ≠ s.st) :
    ∃ imm : Word16, i = .locate imm ∨ i = .correct imm := by
  obtain ⟨v, -, ht⟩ | ⟨v, -, ht⟩ | ⟨v, hi, -⟩ | ⟨v, hi, -⟩ := exec_cases h
  · have keepsST : t.st = s.st := by rw [ht, State.writeW_st]
    exact absurd keepsST hst
  · have keepsST : t.st = s.st := by rw [ht, State.writeW_st]
    exact absurd keepsST hst
  · exact ⟨v, .inl hi⟩
  · exact ⟨v, .inr hi⟩

/-- LOCATE overwrites whatever `ST` held. -/
theorem exec_locate_writeST (imm : Word16) (x : StatusWord) (s : State) :
    exec (.locate imm) (s.writeST x) = exec (.locate imm) s := by
  rw [exec_locate, exec_locate, State.writeST_w, State.writeST_writeST]

/-- CORRECT overwrites whatever `ST` held. -/
theorem exec_correct_writeST (imm : Word16) (x : StatusWord) (s : State) :
    exec (.correct imm) (s.writeST x) = exec (.correct imm) s := by
  rw [exec_correct, exec_correct, State.writeST_w, State.writeST_writeST]

/-- The class in the status word of a word whose result is known. -/
theorem stRes_status_of {w : Word16} {r : LocationResult} (h : locateError w = r) :
    stRes (status w) = resCode r := by
  rw [stRes_status, h]

/-- The status of a corrected word never shows a located bit (R93). -/
theorem stRes_status_correct_ne (w : Word16) : stRes (status (correct w)) ≠ 0b01#2 := by
  obtain h | h := locateError_correct w
  · rw [stRes_status_of h]; decide
  · rw [stRes_status_of h]; decide

/-! ### ENCODE reads the payload only (R129) -/

/-- The later of two writes of `W` stands. -/
@[simp] theorem State.writeW_writeW (s : State) (v w : Word16) :
    (s.writeW v).writeW w = s.writeW w := rfl

/-- Step 1 of `encode` masks the payload, and the later steps start from its result. -/
theorem encode_congr_payload {a b : Word16} (h : a &&& PAYLOAD_MASK = b &&& PAYLOAD_MASK) :
    encode a = encode b := by
  have sameStart : encodeStep1 a = encodeStep1 b := by rw [encodeStep1_eq, encodeStep1_eq, h]
  rw [encode, encode, sameStart]

/-! ### The weight of an error pattern -/

/-- Taking one set position out of a word leaves one fewer. -/
theorem weight_flipBit_of_getBit {e : Word16} {p : Pos4} (hp : getBit e p = true) :
    weight (flipBit e p) + 1 = weight e := by
  have listed : (List.range 16).Perm (p.toNat :: (List.range 16).erase p.toNat) :=
    List.perm_cons_erase (List.mem_range.mpr p.isLt)
  have cleared : (flipBit e p).getLsbD p.toNat = false :=
    (getBit_flipBit e p p).trans (by simp [hp])
  have others : ∀ k ∈ (List.range 16).erase p.toNat, (flipBit e p).getLsbD k = e.getLsbD k := by
    intro k hk
    obtain ⟨hne, hk⟩ := (List.nodup_range.mem_erase_iff).mp hk
    rw [flipBit, oneAt, ← BitVec.twoPow_eq, BitVec.getLsbD_xor, BitVec.getLsbD_twoPow]
    simp [Ne.symm hne]
  rw [weight, weight, listed.countP_eq, listed.countP_eq, List.countP_cons, List.countP_cons, cleared,
    show e.getLsbD p.toNat = true from hp, List.countP_congr fun k hk => by rw [others k hk]]
  rfl

/-- Only the zero word has no set position. -/
theorem eq_zero_of_weight_eq_zero {e : Word16} (h : weight e = 0) : e = 0#16 := by
  refine BitVec.eq_of_getLsbD_eq fun k hk => ?_
  have unset := List.countP_eq_zero.mp h k (List.mem_range.mpr hk)
  rw [BitVec.getLsbD_zero]
  exact Bool.eq_false_iff.mpr unset

theorem exists_getBit_of_weight_pos {e : Word16} (h : 0 < weight e) : ∃ p, getBit e p = true := by
  obtain ⟨k, hk, set⟩ := List.countP_pos_iff.mp h
  refine ⟨BitVec.ofNat 4 k, ?_⟩
  rwa [getBit, BitVec.toNat_ofNat, Nat.mod_eq_of_lt (List.mem_range.mp hk)]

/-! ### Received words (R131) -/

section
variable {c w : Word16} {k : Nat}

theorem eq_of_receivedWithFlips_zero (h : ReceivedWithFlips c w 0) : w = c :=
  (BitVec.xor_eq_zero_iff.mp (eq_zero_of_weight_eq_zero h.2)).symm

/-- A word received with one flip more has a flipped position, and flipping it back undoes that flip. -/
theorem exists_flip_of_receivedWithFlips_succ (h : ReceivedWithFlips c w (k + 1)) :
    ∃ p, getBit (c ^^^ w) p = true ∧ ReceivedWithFlips c (flipBit w p) k := by
  obtain ⟨valid, count⟩ := h
  obtain ⟨p, hp⟩ := exists_getBit_of_weight_pos (Nat.lt_of_lt_of_eq k.succ_pos count.symm)
  have fewer : weight (flipBit (c ^^^ w) p) + 1 = k + 1 := (weight_flipBit_of_getBit hp).trans count
  refine ⟨p, hp, valid, ?_⟩
  rw [flipBit, ← BitVec.xor_assoc]
  exact Nat.succ.inj fewer

theorem exists_eq_flipBit_of_receivedWithFlips_one (h : ReceivedWithFlips c w 1) :
    ∃ p, w = flipBit c p := by
  obtain ⟨p, -, undone⟩ := exists_flip_of_receivedWithFlips_succ h
  exact ⟨p, by rw [← eq_of_receivedWithFlips_zero undone, flipBit_flipBit]⟩

/-- The two positions differ, because a position flipped back no longer counts as flipped. -/
theorem exists_eq_flipBit_flipBit_of_receivedWithFlips_two (h : ReceivedWithFlips c w 2) :
    ∃ p q, q ≠ p ∧ w = flipBit (flipBit c q) p := by
  obtain ⟨p, hp, once⟩ := exists_flip_of_receivedWithFlips_succ h
  obtain ⟨q, hq, twice⟩ := exists_flip_of_receivedWithFlips_succ once
  refine ⟨p, q, ?_, ?_⟩
  · rintro rfl
    rw [getBit_xor] at hp hq
    rw [getBit_flipBit, decide_eq_true rfl, Bool.xor_true, Bool.xor_not, hp] at hq
    exact absurd hq (by decide)
  · rw [← eq_of_receivedWithFlips_zero twice, flipBit_flipBit, flipBit_flipBit]

end

/-- R91: two flips of a valid codeword cancel in the parity and leave the XOR of two different
positions in the syndrome. -/
theorem locateError_flipBit_flipBit_of_validCodeword {c : Word16} (h : validCodeword c = true)
    {p q : Pos4} (hne : q ≠ p) : locateError (flipBit (flipBit c q) p) = .multipleErrors := by
  rw [locateError_eq_multipleErrors_iff, syndrome_flipBit, syndrome_flipBit,
    syndrome_eq_zero_of_validCodeword h, BitVec.zero_xor, parityMismatch_flipBit,
    parityMismatch_flipBit, parityMismatch_of_validCodeword h]
  exact ⟨fun cancel => hne (BitVec.xor_eq_zero_iff.mp cancel), rfl⟩

/-- With at most one flip `correct` gives the codeword back, and the class is not MultipleErrors. -/
theorem correct_of_receivedWithFlips_le_one {c w : Word16}
    (h : ReceivedWithFlips c w 0 ∨ ReceivedWithFlips c w 1) :
    correct w = c ∧ stRes (status w) ≠ 0b10#2 := by
  obtain h | h := h
  · obtain rfl := eq_of_receivedWithFlips_zero h
    obtain ⟨valid, -⟩ := h
    refine ⟨correct_of_validCodeword valid, ?_⟩
    rw [stRes_status_of (locateError_of_validCodeword valid)]
    decide
  · obtain ⟨p, rfl⟩ := exists_eq_flipBit_of_receivedWithFlips_one h
    obtain ⟨valid, -⟩ := h
    refine ⟨correct_flipBit_of_validCodeword valid p, ?_⟩
    rw [stRes_status_of (locateError_flipBit_of_validCodeword valid p), resCode]
    decide

/-- With two flips `locateError` reports MultipleErrors. -/
theorem locateError_of_receivedWithFlips_two {c w : Word16} (h : ReceivedWithFlips c w 2) :
    locateError w = .multipleErrors := by
  obtain ⟨p, q, hne, rfl⟩ := exists_eq_flipBit_flipBit_of_receivedWithFlips_two h
  exact locateError_flipBit_flipBit_of_validCodeword h.1 hne

end Sys2Proof.Machine

namespace Sys2Proof.Proofs

open Sys2Proof Sys2Proof.Machine

/-- Settles O17: of the three kinds of a block step, the idle one keeps `ST`, and a command that changes
it is LOCATE or CORRECT. After a correction `ST` still shows a located bit, which the status of the
corrected word never does. -/
theorem statusIsWrittenByLocateCorrectReset : Obligations.StatusIsWrittenByLocateCorrectReset := by
  refine ⟨fun p s t h hst => ?_, fun imm s => ⟨_, exec_load imm s, State.writeW_st s _⟩,
    fun imm s => ⟨_, exec_encode imm s, State.writeW_st s _⟩,
    fun imm s => ⟨_, exec_correct imm s, rfl, fun flipped => ⟨rfl, fun current => ?_⟩⟩,
    fun imm s => ⟨_, exec_locate imm s, rfl⟩,
    fun imm x s => ⟨exec_locate_writeST imm x s, exec_correct_writeST imm x s⟩⟩
  · obtain ⟨hrst, -⟩ | ⟨-, hvalid, hexec⟩ | ⟨-, -, ht⟩ := blockStep_cases h
    · exact .inl hrst
    · exact .inr ⟨hvalid, exec_changes_st hexec hst⟩
    · exact absurd (congrArg State.st ht) hst
  · have sameStatus : status s.w = status (correct s.w) := current
    rw [State.writeW_st, State.writeST_st, sameStatus] at flipped
    exact stRes_status_correct_ne s.w flipped

/-- Settles O44: ENCODE's result depends on the payload only and is a valid codeword, which LOCATE keeps
and finds without error. -/
theorem encodeErasesTheEvidence : Obligations.EncodeErasesTheEvidence := by
  refine ⟨fun imm s w' h => ?_, fun a b s => ?_⟩
  · have answer : exec (.encode imm) (s.writeW w') = exec (.encode imm) s := by
      rw [exec_encode, exec_encode, State.writeW_w, encode_congr_payload h, State.writeW_writeW]
    exact answer
  · have valid : validCodeword (encode s.w) = true := validCodeword_encode s.w
    have clean : readLocation (status (encode s.w)) = some .noError := by
      rw [readLocation_status, locateError_of_validCodeword valid]
    exact ⟨s.writeW (encode s.w), (s.writeW (encode s.w)).writeST (status (encode s.w)),
      exec_encode a s, valid, exec_locate b _, State.writeST_w _ _, clean⟩

/-- Settles O46: at most one flip is undone and two are detected; 0x0007 and 0x000F, three and four
flips of the zero codeword, are beyond the guarantee: the one is turned into the other, which is a
valid codeword itself. -/
theorem guaranteeForAtMostTwoFlips : Obligations.GuaranteeForAtMostTwoFlips := by
  refine ⟨fun imm c s => ⟨fun h => ?_, fun h => ?_⟩, ?_, ?_⟩
  · obtain ⟨restored, notMultiple⟩ := correct_of_receivedWithFlips_le_one h
    exact ⟨_, exec_correct imm s, restored, notMultiple⟩
  · have detected : locateError s.w = .multipleErrors := locateError_of_receivedWithFlips_two h
    exact ⟨_, exec_correct imm s, correct_of_multipleErrors detected, stRes_status_of detected⟩
  · have located : locateError 0x0007#16 = .bitPosition 3#4 := by decide
    have miscorrected : correct 0x0007#16 = 0x000F#16 := correct_of_bitPosition located
    refine ⟨0x0000#16, State.reset.writeW 0x0007#16, _, ⟨by decide, by decide⟩, exec_correct _ _,
      stRes_status_of located, ?_, ?_⟩
    · rw [State.writeW_w, State.writeW_w, miscorrected]; decide
    · rw [State.writeW_w, State.writeW_w, miscorrected]; decide
  · have valid : validCodeword 0x000F#16 = true := by decide
    refine ⟨0x0000#16, State.reset.writeW 0x000F#16, _, ⟨by decide, by decide⟩, exec_correct _ _,
      stRes_status_of (locateError_of_validCodeword valid), ?_⟩
    rw [State.writeW_w, State.writeW_w, correct_of_validCodeword valid]
    decide

/-- Settles O2: a reset sample sets both registers, and an idle step keeps both. -/
theorem resetStepDropsTheCommand : Obligations.ResetStepDropsTheCommand := by
  refine ⟨fun p s hrst => blockStep_of_rst hrst s, fun p s t h changed => ?_⟩
  obtain ⟨hrst, -⟩ | ⟨-, hvalid, -⟩ | ⟨-, -, ht⟩ := blockStep_cases h
  · exact .inl hrst
  · exact .inr hvalid
  · obtain hw | hst := changed
    · exact absurd (congrArg State.w ht) hw
    · exact absurd (congrArg State.st ht) hst

/-- Settles O45: both classes pass `W` through, and their codes stand in `ST.res`. -/
theorem passThroughLooksLikeSuccess : Obligations.PassThroughLooksLikeSuccess := fun imm s =>
  ⟨_, exec_correct imm s, fun clean => ⟨correct_of_noError clean, stRes_status_of clean⟩,
    fun detected => ⟨correct_of_multipleErrors detected, stRes_status_of detected⟩⟩

end Sys2Proof.Proofs
end

section
/-! PROOFS. The fields of a decoded command, `op` as match and mask, and the round trip of command words
(spec/30_encoding.md sections 1 to 3). -/

namespace Sys2Proof.Machine

/-! ### The two fields of a word and of its command (R50, R51) -/

section
variable {c : CmdWord}

theorem decodeCmd_of_load (h : opField c = 0b00#2) : decodeCmd c = .load (immField c) := by
  rw [decodeCmd, h]; rfl

theorem decodeCmd_of_encode (h : opField c = 0b01#2) : decodeCmd c = .encode (immField c) := by
  rw [decodeCmd, h]; rfl

theorem decodeCmd_of_locate (h : opField c = 0b10#2) : decodeCmd c = .locate (immField c) := by
  rw [decodeCmd, h]; rfl

theorem decodeCmd_of_correct (h : opField c = 0b11#2) : decodeCmd c = .correct (immField c) := by
  rw [decodeCmd, h]; rfl

end

section
variable (c : CmdWord)

theorem opField_cases :
    opField c = 0b00#2 ∨ opField c = 0b01#2 ∨ opField c = 0b10#2 ∨ opField c = 0b11#2 := by
  generalize opField c = op
  revert op; decide

/-- The decoder drops neither field. -/
theorem fields_decodeCmd : opOf (decodeCmd c) = opField c ∧ immOf (decodeCmd c) = immField c := by
  obtain h | h | h | h := opField_cases c
  · rw [decodeCmd_of_load h, h]; exact ⟨rfl, rfl⟩
  · rw [decodeCmd_of_encode h, h]; exact ⟨rfl, rfl⟩
  · rw [decodeCmd_of_locate h, h]; exact ⟨rfl, rfl⟩
  · rw [decodeCmd_of_correct h, h]; exact ⟨rfl, rfl⟩

theorem encodeCmd_decodeCmd : encodeCmd (decodeCmd c) = c := by
  obtain ⟨hop, himm⟩ := fields_decodeCmd c
  rw [encodeCmd, hop, himm]
  exact Laws.append_of_fields c

/-- The mask 0x30000 keeps `op` and clears `imm`. -/
theorem and_opMask : c &&& 0x30000#18 = (opField c ++ 0#16 : BitVec (2 + 16)) := by
  have masked : (opField c ++ immField c : BitVec (2 + 16)) &&& 0b11#2 ++ 0#16 =
      (opField c &&& 0b11#2) ++ (immField c &&& 0#16) := BitVec.and_append
  have allOps : opField c &&& 0b11#2 = opField c := BitVec.and_allOnes
  rw [Laws.append_of_fields, allOps, BitVec.and_zero] at masked
  exact masked

/-- Match and mask select by `op` alone. -/
theorem and_opMask_eq_iff (op : BitVec 2) :
    c &&& 0x30000#18 = (op ++ 0#16 : BitVec (2 + 16)) ↔ opField c = op := by
  rw [and_opMask]
  exact BitVec.append_left_inj _

theorem setWidth_eq_immField : c.setWidth 16 = immField c := by
  have low : (opField c ++ immField c : BitVec (2 + 16)).setWidth 16 = immField c :=
    BitVec.setWidth_append_eq_right
  rwa [Laws.append_of_fields] at low

end

/-! ### Presented words -/

theorem blockStep_present (c : CmdWord) (s : State) :
    blockStep (.present c) s = exec (decodeCmd c) s := rfl

end Sys2Proof.Machine

namespace Sys2Proof.Proofs

open Sys2Proof Sys2Proof.Machine

/-- Settles O8: the encoder writes the two fields the decoder reads, and the decoder drops neither, so
the two are inverse to each other. -/
theorem decodeEncodeAgree : Obligations.DecodeEncodeAgree := by
  refine ⟨decodeCmd_encodeCmd, encodeCmd_decodeCmd, fun c =>
    ⟨decodeCmd c, encodeCmd_decodeCmd c, fun i hi => ?_⟩⟩
  rw [← hi, decodeCmd_encodeCmd]

/-- Settles O9: the mask leaves `op` alone, each value of `op` selects one constructor with the word's
`imm`, and the step is the equation of that command. -/
theorem opSelectsTheCommand : Obligations.OpSelectsTheCommand := by
  refine ⟨fun c => ⟨and_opMask_eq_iff c 0b00#2, and_opMask_eq_iff c 0b01#2,
    and_opMask_eq_iff c 0b10#2, and_opMask_eq_iff c 0b11#2⟩, fun c s => ?_⟩
  have selects (op : BitVec 2) {i : Instr} {t : State} (decodes : opField c = op → decodeCmd c = i)
      (runs : exec i s = .next t) (h : c &&& 0x30000#18 = (op ++ 0#16 : BitVec (2 + 16))) :
      decodeCmd c = i ∧ blockStep (.present c) s = .next t := by
    have hi : decodeCmd c = i := decodes ((and_opMask_eq_iff c op).mp h)
    exact ⟨hi, by rw [blockStep_present, hi, runs]⟩
  rw [setWidth_eq_immField]
  exact ⟨selects 0b00#2 decodeCmd_of_load (exec_load _ s),
    selects 0b01#2 decodeCmd_of_encode (exec_encode _ s),
    selects 0b10#2 decodeCmd_of_locate (exec_locate _ s),
    selects 0b11#2 decodeCmd_of_correct (exec_correct _ s)⟩

/-- Settles O10: six closed words, each read by evaluation of the decoder. -/
theorem sampleWordsDecode : Obligations.SampleWordsDecode := by
  refine ⟨?_, ?_, ?_, ?_, ?_, ?_⟩ <;> decide

end Sys2Proof.Proofs
end

section
/-! PROOFS. What a step takes from the host's coming samples, the frame of the four commands, lists of
commands, and the invariant of the status register (spec/10_state.md, spec/20_memory.md section 3). -/

namespace Sys2Proof.Machine

/-! ### The host's coming samples -/

theorem exec_keeps_inputs {i : Instr} {s t : State} (h : exec i s = .next t) :
    t.inputs = s.inputs := by
  obtain ⟨v, -, rfl⟩ | ⟨v, -, rfl⟩ | ⟨v, -, rfl⟩ | ⟨v, -, rfl⟩ := exec_cases h
  · exact State.writeW_inputs s v
  · exact State.writeW_inputs s _
  · exact State.writeST_inputs s _
  · rw [State.writeW_inputs, State.writeST_inputs]

theorem blockStep_keeps_inputs {p : PortIn} {s t : State} (h : blockStep p s = .next t) :
    t.inputs = s.inputs := by
  obtain ⟨-, rfl⟩ | ⟨-, -, hexec⟩ | ⟨-, -, rfl⟩ := blockStep_cases h
  · exact State.resetRegs_inputs s
  · exact exec_keeps_inputs hexec
  · rfl

/-- With no sample placed the step is idle (log entry 2). -/
theorem step_of_inputs_nil {s : State} (h : s.inputs = []) : step s = .next s := by
  obtain ⟨w, st, inputs⟩ := s
  obtain rfl : inputs = [] := h
  rfl

/-- With a sample placed the block acts on it (log entry 1). -/
theorem step_of_inputs_cons {s : State} {p : PortIn} {rest : List PortIn}
    (h : s.inputs = p :: rest) : step s = blockStep p { s with inputs := rest } := by
  obtain ⟨w, st, inputs⟩ := s
  obtain rfl : inputs = p :: rest := h
  rfl

/-- A table row's word that stands for a command is presented as that command. -/
theorem decodeCmd_of_decodeTableWord {nbits w : Nat} {i : Instr}
    (h : decodeTableWord nbits w = some i) :
    decodeCmd (BitVec.ofNat CMD_WIDTH (w % 2 ^ nbits)) = i := by
  rw [decodeTableWord, decodeNat] at h
  cases fits : fitsCmd (w % 2 ^ nbits) with
  | true => rw [fits] at h; exact Option.some.inj h
  | false => rw [fits] at h; cases h

/-! ### Lists of commands (R44, R134) -/

theorem step_withCommands_cons (i : Instr) (cs : List Instr) (s : State) :
    step (s.withCommands (i :: cs)) = exec i (s.withCommands cs) :=
  (step_of_inputs_cons rfl).trans (blockStep_present_encodeCmd i _)

/-- The state after a command still holds the commands that follow it. -/
theorem exec_withCommands (i : Instr) (cs : List Instr) (s : State) :
    ∃ t : State, exec i (s.withCommands cs) = .next (t.withCommands cs) := by
  obtain ⟨t, ht⟩ := exec_completes i (s.withCommands cs)
  have same : t.withCommands cs = t := by
    obtain ⟨w, st, inputs⟩ := t
    obtain rfl : inputs = (s.withCommands cs).inputs := exec_keeps_inputs ht
    rfl
  exact ⟨t, by rw [same, ht]⟩

/-- A run goes on from what its first step answers. -/
theorem run_succ_of_step {M : Host.Core} {s r : M.State} (h : M.step s = .next r) (k : Nat) :
    M.run (k + 1) s = M.run k r := by
  rw [Host.Core.run, h]

/-- As many steps as there are commands use up the list. -/
theorem run_withCommands (cs : List Instr) (s : State) : ∃ t : State,
    Host.Core.run Sys2Proof.core cs.length (s.withCommands cs) = .next t ∧ t.inputs = [] := by
  induction cs generalizing s with
  | nil => exact ⟨s.withCommands [], rfl, rfl⟩
  | cons i cs ih =>
    obtain ⟨r, hr⟩ := exec_withCommands i cs s
    obtain ⟨t, hrun, hempty⟩ := ih r
    have first : Sys2Proof.core.step (s.withCommands (i :: cs)) = .next (r.withCommands cs) :=
      (step_withCommands_cons i cs s).trans hr
    exact ⟨t, (run_succ_of_step first cs.length).trans hrun, hempty⟩

/-! ### The bit CORRECT changes (R96) -/

/-- A bit that `correct` changes is the one `pos` names, with the class 0b01. -/
theorem position_of_getBit_correct_ne {w : Word16} {q : Pos4}
    (h : getBit (correct w) q ≠ getBit w q) :
    stRes (status w) = 0b01#2 ∧ q = stPos (status w) := by
  by_cases located : stRes (status w) = 0b01#2
  · refine ⟨located, ?_⟩
    by_contra hq
    rw [correct_eq_flipBit_stPos located, getBit_flipBit, decide_eq_false hq, Bool.xor_false] at h
    exact h rfl
  · rw [correct_eq_self_of_stRes_ne located] at h
    exact absurd rfl h

/-! ### The observable status patterns (R27) -/

theorem statusLegal_status (w : Word16) : StatusLegal (status w) := by
  rw [StatusLegal, stRes_status, stPos_status, stSyn_status, stPerr_status]
  exact ⟨rfl, rfl⟩

/-- The reset value of `ST` is the status of the reset value of `W` (R31). -/
theorem statusLegal_reset : StatusLegal RESET_ST := by
  rw [← Proofs.status_zero]
  exact statusLegal_status RESET_W

theorem exec_keeps_inv {i : Instr} {s t : State} (hi : Inv s) (h : exec i s = .next t) : Inv t := by
  obtain ⟨v, -, rfl⟩ | ⟨v, -, rfl⟩ | ⟨v, -, rfl⟩ | ⟨v, -, rfl⟩ := exec_cases h
  · exact hi
  · exact hi
  · exact statusLegal_status s.w
  · exact statusLegal_status s.w

theorem blockStep_keeps_inv {p : PortIn} {s t : State} (hi : Inv s) (h : blockStep p s = .next t) :
    Inv t := by
  obtain ⟨-, rfl⟩ | ⟨-, -, hexec⟩ | ⟨-, -, rfl⟩ := blockStep_cases h
  · exact statusLegal_reset
  · exact exec_keeps_inv hi hexec
  · exact hi

end Sys2Proof.Machine

namespace Sys2Proof.Proofs

open Sys2Proof Sys2Proof.Machine

/-- Settles O40: `ST` after a step is the reset value, the status of a word, or what it was before. -/
theorem everyStepKeepsTheStatusLegal : Obligations.EveryStepKeepsTheStatusLegal := by
  intro s t hi h
  have taken : Inv s.dropSample := hi
  exact blockStep_keeps_inv taken ((step_eq s).symm.trans h)

/-- Settles O41: the reset value of `ST` is the status of the zero word. -/
theorem resetStatusIsLegal : Obligations.ResetStatusIsLegal := statusLegal_reset

/-- Settles O18: by the equations of the four commands; `encode` writes no payload position, and
`correct` writes at most the located one. -/
theorem commandFrames : Obligations.CommandFrames := fun imm s =>
  ⟨⟨_, exec_load imm s, State.writeW_st s _, State.writeW_inputs s _⟩,
    ⟨_, exec_encode imm s, State.writeW_st s _, State.writeW_inputs s _, encode_and_payload s.w⟩,
    ⟨_, exec_locate imm s, State.writeST_w s _, State.writeST_inputs s _⟩,
    ⟨_, exec_correct imm s, exec_keeps_inputs (exec_correct imm s),
      fun _ => position_of_getBit_correct_ne⟩⟩

/-- Settles O55: a step runs the first command of the list, and by induction on the list the run ends
with none left. -/
theorem commandListsRunInOrderAndEnd : Obligations.CommandListsRunInOrderAndEnd :=
  ⟨step_withCommands_cons, run_withCommands⟩

/-- Settles O3: a sample without `rst` and `cmd_valid` is an idle one, and so is the missing sample. -/
theorem idleStepChangesNothing : Obligations.IdleStepChangesNothing :=
  ⟨fun c s => by rw [blockStep, portEvent_idle], fun _ => step_of_inputs_nil⟩

/-- Settles O4: the block acts on the first sample, and a table row's word is presented as one. -/
theorem stepRunsTheDecodedCommand : Obligations.StepRunsTheDecodedCommand := by
  refine ⟨fun s c rest h => ?_, fun s nbits w i h => ?_⟩
  · rw [step_of_inputs_cons h, blockStep, portEvent_command]
  · rw [State.withFetchWord, step_pushSample, blockStep_present, decodeCmd_of_decodeTableWord h]

/-- Settles O5: the block completes on every sample and leaves the remaining samples as they are. -/
theorem everyStepTakesOneSample : Obligations.EveryStepTakesOneSample := by
  intro s
  obtain ⟨t, ht⟩ := blockStep_completes s.nextSample s.dropSample
  exact ⟨t, ht, blockStep_keeps_inputs ht⟩

end Sys2Proof.Proofs
end

section
/-! PROOFS. The masks as position sets, the equivalent forms of a valid codeword, `encode` by what
determines it, its closed form and linearity, and the weight of valid codewords (spec/10_state.md
section 1, spec/40_encoder.md section 2). -/

namespace Sys2Proof.Machine

/-! ### The equivalent forms of a valid codeword (R25) -/

/-- R77: each bit of the syndrome is the XOR over one cover. -/
theorem syndrome_trees (w : Word16) :
    (syndrome w).getLsbD 0 = xorbits (w &&& COVER1) ∧ (syndrome w).getLsbD 1 = xorbits (w &&& COVER2) ∧
    (syndrome w).getLsbD 2 = xorbits (w &&& COVER4) ∧ (syndrome w).getLsbD 3 = xorbits (w &&& COVER8) :=
  ⟨getLsbD_syndrome (by decide) w, getLsbD_syndrome (by decide) w, getLsbD_syndrome (by decide) w,
    getLsbD_syndrome (by decide) w⟩

theorem validCodeword_iff_syndrome (w : Word16) :
    validCodeword w = true ↔ syndrome w = 0#4 ∧ parityMismatch w = false := by
  refine ⟨fun h => ⟨syndrome_eq_zero_of_validCodeword h, parityMismatch_of_validCodeword h⟩,
    fun ⟨noIndex, even⟩ => ?_⟩
  obtain ⟨tree0, tree1, tree2, tree3⟩ := syndrome_trees w
  rw [noIndex] at tree0 tree1 tree2 tree3
  exact (validCodeword_iff_covers w).mpr ⟨tree0.symm, tree1.symm, tree2.symm, tree3.symm, even⟩

theorem validCodeword_iff_noError (w : Word16) :
    validCodeword w = true ↔ locateError w = .noError :=
  (validCodeword_iff_syndrome w).trans (locateError_eq_noError_iff w).symm

/-- Syndrome and mismatch are linear, so the valid codewords are closed under XOR. -/
theorem validCodeword_xor {c d : Word16} (hc : validCodeword c = true) (hd : validCodeword d = true) :
    validCodeword (c ^^^ d) = true := by
  obtain ⟨indexC, evenC⟩ := (validCodeword_iff_syndrome c).mp hc
  obtain ⟨indexD, evenD⟩ := (validCodeword_iff_syndrome d).mp hd
  rw [parityMismatch] at evenC evenD
  rw [validCodeword_iff_syndrome, syndrome_xor, indexC, indexD, parityMismatch, xorbits_xor, evenC,
    evenD]
  exact ⟨rfl, rfl⟩

/-! ### `encode` by what determines it -/

/-- `encode w` is the valid codeword with the payload of `w`. -/
theorem encode_eq_of_validCodeword {v w : Word16} (valid : validCodeword v = true)
    (payload : v &&& PAYLOAD_MASK = w &&& PAYLOAD_MASK) : encode w = v :=
  (encode_congr_payload payload.symm).trans (encode_of_validCodeword valid)

theorem encode_and_mask (w : Word16) : encode (w &&& PAYLOAD_MASK) = encode w :=
  encode_congr_payload (by rw [BitVec.and_assoc, BitVec.and_self])

theorem encode_eq_encode_iff (a b : Word16) :
    encode a = encode b ↔ a &&& PAYLOAD_MASK = b &&& PAYLOAD_MASK := by
  refine ⟨fun h => ?_, encode_congr_payload⟩
  rw [← encode_and_payload a, h, encode_and_payload]

theorem validCodeword_iff_eq_encode (w : Word16) : validCodeword w = true ↔ w = encode w :=
  ⟨fun h => (encode_of_validCodeword h).symm, fun h => h ▸ validCodeword_encode w⟩

theorem validCodeword_iff_exists_encode (c : Word16) :
    validCodeword c = true ↔ ∃ w : Word16, encode w = c :=
  ⟨fun h => ⟨c, encode_of_validCodeword h⟩, fun ⟨w, hw⟩ => hw ▸ validCodeword_encode w⟩

theorem encode_xor (a b : Word16) : encode (a ^^^ b) = encode a ^^^ encode b := by
  refine encode_eq_of_validCodeword
    (validCodeword_xor (validCodeword_encode a) (validCodeword_encode b)) (word_ext fun q => ?_)
  have payload (w : Word16) :
      (getBit (encode w) q && getBit PAYLOAD_MASK q) = (getBit w q && getBit PAYLOAD_MASK q) := by
    rw [← getBit_and, encode_and_payload, getBit_and]
  simp only [getBit_and, getBit_xor, Bool.and_xor_distrib_right, payload]

/-- One valid codeword per payload: `encode` of the packed payload. -/
theorem validCodeword_and_unpack_iff (c : Word16) (d : Payload) :
    validCodeword c = true ∧ unpack c = d ↔ c = encode (pack d) := by
  constructor
  · rintro ⟨valid, rfl⟩
    rw [pack_unpack, encode_and_mask, encode_of_validCodeword valid]
  · rintro rfl
    refine ⟨validCodeword_encode _, ?_⟩
    rw [← unpack_pack (unpack _), pack_unpack, encode_and_payload, pack_and_payload, unpack_pack]

/-! ### The closed form and the order of the control bits (R67) -/

/-- The parity of a word is that of its payload bits and its five check bits. -/
theorem xorbits_eq_payload_xor_checks (w : Word16) :
    xorbits w = (xorbits (w &&& PAYLOAD_MASK) ^^ getBit w 0#4 ^^ getBit w 1#4 ^^ getBit w 2#4 ^^
      getBit w 4#4 ^^ getBit w 8#4) := by
  have split : w = (w &&& PAYLOAD_MASK) ^^^ (w &&& CHECK_MASK) := by
    refine word_ext fun q => ?_
    have complement : getBit CHECK_MASK q = !getBit PAYLOAD_MASK q := by revert q; decide
    rw [getBit_xor, getBit_and, getBit_and, complement]
    cases getBit w q <;> cases getBit PAYLOAD_MASK q <;> rfl
  have positions : (List.range 16).filter CHECK_MASK.getLsbD = [0, 1, 2, 4, 8] := by decide
  have checks : xorbits (w &&& CHECK_MASK) =
      (getBit w 0#4 ^^ getBit w 1#4 ^^ getBit w 2#4 ^^ getBit w 4#4 ^^ getBit w 8#4) := by
    rw [xorbits_and, positions]
    simp only [List.foldl_cons, List.foldl_nil, Bool.false_xor]
    rfl
  conv_lhs => rw [split, xorbits_xor, checks]
  simp only [Bool.xor_assoc]

/-- Bit 0 of the encoded word in closed form: it makes the parity of the whole word even. -/
theorem getBit_encode_zero_closed (w : Word16) :
    getBit (encode w) 0#4 = (xorbits (w &&& PAYLOAD_MASK) ^^ xorbits (w &&& PAYLOAD_MASK &&& COVER1) ^^
      xorbits (w &&& PAYLOAD_MASK &&& COVER2) ^^ xorbits (w &&& PAYLOAD_MASK &&& COVER4) ^^
      xorbits (w &&& PAYLOAD_MASK &&& COVER8)) := by
  have even := xorbits_eq_payload_xor_checks (encode w)
  obtain ⟨bit1, bit2, bit4, bit8⟩ := getBit_encode_control w
  rw [xorbits_encode, encode_and_payload, bit1, bit2, bit4, bit8] at even
  revert even
  generalize getBit (encode w) 0#4 = b0, xorbits (w &&& PAYLOAD_MASK) = u,
    xorbits (w &&& PAYLOAD_MASK &&& COVER1) = c1, xorbits (w &&& PAYLOAD_MASK &&& COVER2) = c2,
    xorbits (w &&& PAYLOAD_MASK &&& COVER4) = c4, xorbits (w &&& PAYLOAD_MASK &&& COVER8) = c8
  revert b0 u c1 c2 c4 c8
  decide

/-- Each bit of the closed form: the payload, and one term per check position. -/
theorem getBit_encodeClosed (w : Word16) (q : Pos4) : getBit (encodeClosed w) q =
    (getBit w q && getBit PAYLOAD_MASK q ||
      (decide (q = 8#4) && xorbits (w &&& PAYLOAD_MASK &&& COVER8)) ||
      (decide (q = 4#4) && xorbits (w &&& PAYLOAD_MASK &&& COVER4)) ||
      (decide (q = 2#4) && xorbits (w &&& PAYLOAD_MASK &&& COVER2)) ||
      (decide (q = 1#4) && xorbits (w &&& PAYLOAD_MASK &&& COVER1)) ||
      (decide (q = 0#4) && (xorbits (w &&& PAYLOAD_MASK) ^^ xorbits (w &&& PAYLOAD_MASK &&& COVER1) ^^
        xorbits (w &&& PAYLOAD_MASK &&& COVER2) ^^ xorbits (w &&& PAYLOAD_MASK &&& COVER4) ^^
        xorbits (w &&& PAYLOAD_MASK &&& COVER8)))) := by
  have bitAt (b : Bool) (p : Pos4) :
      getBit ((BitVec.ofBool b).setWidth 16 <<< p.toNat) q = (decide (q = p) && b) := by
    revert b p q; decide
  rw [← bitAt _ 8#4, ← bitAt _ 4#4, ← bitAt _ 2#4, ← bitAt _ 1#4, ← bitAt _ 0#4, ← getBit_and]
  simp only [← getBit_or]
  rfl

theorem encode_eq_encodeClosed (w : Word16) : encode w = encodeClosed w := by
  refine word_ext fun q => ?_
  have checkOff : getBit PAYLOAD_MASK 0#4 = false ∧ getBit PAYLOAD_MASK 1#4 = false ∧
    getBit PAYLOAD_MASK 2#4 = false ∧ getBit PAYLOAD_MASK 4#4 = false ∧
    getBit PAYLOAD_MASK 8#4 = false := by decide
  obtain ⟨bit1, bit2, bit4, bit8⟩ := getBit_encode_control w
  rw [getBit_encodeClosed]
  obtain rfl | rfl | rfl | rfl | rfl | hq := position_cases q
  · simp [checkOff, getBit_encode_zero_closed]
  · simp [checkOff, bit1]
  · simp [checkOff, bit2]
  · simp [checkOff, bit4]
  · simp [checkOff, bit8]
  · have notCheck : q ≠ 0#4 ∧ q ≠ 1#4 ∧ q ≠ 2#4 ∧ q ≠ 4#4 ∧ q ≠ 8#4 := by revert q; decide
    simp [getBit_encode_payload w hq, hq, notCheck]

/-- The common shape of steps 2 to 5: the control bit at `p` for the cover `m`. -/
def controlStep (m : Word16) (p : Pos4) (v : Word16) : Word16 := setBit v p (xorbits (v &&& m))

/-- Two control steps commute when neither writes a position of the other's cover. -/
theorem controlStep_comm {m n : Word16} {p q : Pos4}
    (apart : p ≠ q ∧ getBit n p = false ∧ getBit m q = false) (v : Word16) :
    controlStep n q (controlStep m p v) = controlStep m p (controlStep n q v) := by
  obtain ⟨hpq, hp, hq⟩ := apart
  simp only [controlStep, setBit_and_of_notMem hp, setBit_and_of_notMem hq]
  refine word_ext fun r => ?_
  simp only [getBit_setBit]
  by_cases h : r = p
  · rw [h, if_neg hpq, if_pos rfl, if_pos rfl]
  · rw [if_neg h, if_neg h]

/-- R67: the control bits may be computed in the reverse order. -/
theorem controlSteps_reverse (v : Word16) :
    encodeStep5 (encodeStep4 (encodeStep3 (encodeStep2 v))) =
      encodeStep2 (encodeStep3 (encodeStep4 (encodeStep5 v))) := by
  calc encodeStep5 (encodeStep4 (encodeStep3 (encodeStep2 v)))
    _ = encodeStep5 (encodeStep4 (encodeStep2 (encodeStep3 v))) :=
      congrArg (encodeStep5 <| encodeStep4 ·) (controlStep_comm (by decide) v)
    _ = encodeStep5 (encodeStep2 (encodeStep4 (encodeStep3 v))) :=
      congrArg encodeStep5 (controlStep_comm (by decide) _)
    _ = encodeStep2 (encodeStep5 (encodeStep4 (encodeStep3 v))) := controlStep_comm (by decide) _
    _ = encodeStep2 (encodeStep5 (encodeStep3 (encodeStep4 v))) :=
      congrArg (encodeStep2 <| encodeStep5 ·) (controlStep_comm (by decide) v)
    _ = encodeStep2 (encodeStep3 (encodeStep5 (encodeStep4 v))) :=
      congrArg encodeStep2 (controlStep_comm (by decide) _)
    _ = encodeStep2 (encodeStep3 (encodeStep4 (encodeStep5 v))) :=
      congrArg (encodeStep2 <| encodeStep3 ·) (controlStep_comm (by decide) v)

/-! ### Weight (R70) -/

/-- A fold of XORs counts the set positions modulo 2. -/
theorem foldl_xor_eq_countP_odd (l : List Nat) (f : Nat → Bool) (x : Bool) :
    l.foldl (fun acc p => acc ^^ f p) x = (x ^^ decide (l.countP f % 2 = 1)) := by
  induction l generalizing x with
  | nil => simp
  | cons p l ih =>
    rw [List.foldl_cons, ih, List.countP_cons]
    obtain even | odd := Nat.mod_two_eq_zero_or_one (l.countP f)
    · cases hp : f p <;> simp [Nat.add_mod, even]
    · cases hp : f p <;> simp [Nat.add_mod, odd]

theorem xorbits_eq_weight_odd (w : Word16) : xorbits w = decide (weight w % 2 = 1) :=
  (foldl_xor_eq_countP_odd (List.range 16) w.getLsbD false).trans (Bool.false_xor _)

theorem weight_even_of_validCodeword {c : Word16} (h : validCodeword c = true) :
    weight c % 2 = 0 := by
  have even : xorbits c = false := parityMismatch_of_validCodeword h
  rw [xorbits_eq_weight_odd, decide_eq_false_iff_not] at even
  exact Nat.mod_two_ne_one.mp even

/-- Two set positions would make two flips of the zero codeword, which `locateError` reports. -/
theorem weight_ne_two_of_validCodeword {c : Word16} (h : validCodeword c = true) : weight c ≠ 2 := by
  intro two
  have received : ReceivedWithFlips 0#16 c 2 := ⟨by decide, by rw [BitVec.zero_xor, two]⟩
  have reported := locateError_of_receivedWithFlips_two received
  rw [locateError_of_validCodeword h] at reported
  cases reported

theorem four_le_weight_of_validCodeword {c : Word16} (h : validCodeword c = true) (hc : c ≠ 0#16) :
    4 ≤ weight c := by
  have notZero : weight c ≠ 0 := fun zero => hc (eq_zero_of_weight_eq_zero zero)
  have notTwo := weight_ne_two_of_validCodeword h
  have even := weight_even_of_validCodeword h
  omega

end Sys2Proof.Machine

namespace Sys2Proof.Proofs

open Sys2Proof Sys2Proof.Machine

/-- Settles O19: sixteen positions per mask. -/
theorem masksAreThePositionSets : Obligations.MasksAreThePositionSets := by
  refine ⟨?_, ?_, ?_, ?_⟩ <;> decide

/-- Settles O23: bit by bit for the closed form; each step writes outside the other covers, so the
control-bit steps commute. -/
theorem encodeEqualsItsClosedForm : Obligations.EncodeEqualsItsClosedForm :=
  ⟨encode_eq_encodeClosed, fun w => congrArg encodeStep6 (controlSteps_reverse (encodeStep1 w))⟩

/-- Settles O24: `encode w` is the valid codeword with the payload of `w`. -/
theorem encodeDependsOnThePayload : Obligations.EncodeDependsOnThePayload :=
  ⟨fun w => (encode_and_mask w).symm, encode_eq_encode_iff, encode_encode,
    validCodeword_iff_exists_encode⟩

/-- Settles O26: the XOR of two valid codewords is a valid codeword, so distance is weight, which is
even and neither 0 nor 2; 0x000F has weight 4. -/
theorem encodeIsLinearWithDistanceFour : Obligations.EncodeIsLinearWithDistanceFour :=
  ⟨encode_of_validCodeword (by decide), encode_xor,
    fun _ h => ⟨weight_even_of_validCodeword h, four_le_weight_of_validCodeword h⟩,
    fun _ _ hc hd differ => four_le_weight_of_validCodeword (validCodeword_xor hc hd)
      fun same => differ (BitVec.xor_eq_zero_iff.mp same),
    0x000F#16, by decide, by decide⟩

/-- Settles O27: each form of the condition, and the one valid codeword of a payload. -/
theorem validCodewordForms : Obligations.ValidCodewordForms :=
  ⟨validCodeword_iff_covers, validCodeword_iff_syndrome, validCodeword_iff_noError,
    validCodeword_iff_eq_encode, fun d => ⟨encode (pack d), (validCodeword_and_unpack_iff _ d).mpr rfl,
      fun c => (validCodeword_and_unpack_iff c d).mp⟩⟩

end Sys2Proof.Proofs
end

section
/-! PROOFS. What flipped positions do to syndrome and mismatch (spec/41_syndrome.md sections 2 and 3). -/

namespace Sys2Proof.Machine

section
variable {c : Word16} (h : validCodeword c = true) (e : Word16)
include h

/-- The error pattern shows through a valid codeword. -/
theorem syndrome_validCodeword_xor : syndrome (c ^^^ e) = syndrome e := by
  rw [syndrome_xor, syndrome_eq_zero_of_validCodeword h, BitVec.zero_xor]

theorem parityMismatch_validCodeword_xor : parityMismatch (c ^^^ e) = parityMismatch e := by
  have even : xorbits c = false := parityMismatch_of_validCodeword h
  rw [parityMismatch, xorbits_xor, even, Bool.false_xor, parityMismatch]

theorem locateError_validCodeword_xor : locateError (c ^^^ e) = locateError e := by
  rw [locateError, syndrome_validCodeword_xor h, parityMismatch_validCodeword_xor h, locateError]

end

theorem parityMismatch_eq_false_of_weight_even {e : Word16} (h : weight e % 2 = 0) :
    parityMismatch e = false := by
  rw [parityMismatch, xorbits_eq_weight_odd, h]
  rfl

theorem parityMismatch_eq_true_of_weight_odd {e : Word16} (h : weight e % 2 = 1) :
    parityMismatch e = true := by
  rw [parityMismatch, xorbits_eq_weight_odd, h]
  rfl

/-- With an even number of flips the syndrome alone tells a valid pattern. -/
theorem syndrome_eq_zero_iff_of_weight_even {e : Word16} (h : weight e % 2 = 0) :
    syndrome e = 0#4 ↔ validCodeword e = true := by
  rw [validCodeword_iff_syndrome, and_iff_left (parityMismatch_eq_false_of_weight_even h)]

end Sys2Proof.Machine

namespace Sys2Proof.Proofs

open Sys2Proof Sys2Proof.Machine

/-- Settles O29: bit `k` of the loop is the XOR of the positions whose index has bit `k`, and position 0
adds nothing. -/
theorem syndromeIsFourXorTrees : Obligations.SyndromeIsFourXorTrees :=
  ⟨syndrome_trees, fun w => by rw [syndrome_flipBit, BitVec.xor_zero]⟩

/-- Settles O30: both are linear, a single position has its index and odd weight, and a valid codeword
adds nothing. -/
theorem syndromeIsLinear : Obligations.SyndromeIsLinear :=
  ⟨fun w p => ⟨syndrome_flipBit w p, parityMismatch_flipBit w p⟩,
    fun a b => ⟨syndrome_xor a b, xorbits_xor a b⟩,
    fun _ e h => ⟨syndrome_validCodeword_xor h e, parityMismatch_validCodeword_xor h e⟩⟩

/-- Settles O31: the two values are those of the pattern; each flip adds its index to the one and inverts
the other. -/
theorem errorPatternMeaning : Obligations.ErrorPatternMeaning := by
  intro c e h
  rw [syndrome_validCodeword_xor h, parityMismatch_validCodeword_xor h]
  refine ⟨?_, ?_, ?_, fun even => ⟨parityMismatch_eq_false_of_weight_even even,
    syndrome_eq_zero_iff_of_weight_even even⟩, parityMismatch_eq_true_of_weight_odd⟩
  · rintro rfl
    exact (validCodeword_iff_syndrome 0#16).mp (by decide)
  · rintro p rfl
    exact ⟨syndrome_oneAt p, parityMismatch_eq_true_of_weight_odd (by rw [weight_oneAt])⟩
  · rintro p q differ rfl
    have odd : parityMismatch (oneAt p) = true :=
      parityMismatch_eq_true_of_weight_odd (by rw [weight_oneAt])
    refine ⟨by rw [syndrome_xor, syndrome_oneAt, syndrome_oneAt],
      fun cancel => differ (BitVec.xor_eq_zero_iff.mp cancel), ?_⟩
    exact (parityMismatch_flipBit (oneAt p) q).trans (by rw [odd]; rfl)

end Sys2Proof.Proofs
end

section
/-! PROOFS. The words of each syndrome and mismatch, how many there are, the observable status words,
errors beyond one, and the wired units (spec/41_syndrome.md section 4, spec/42_locate_correct.md). -/

namespace Sys2Proof.Machine

/-! ### The words of each syndrome and mismatch -/

/-- A word with syndrome `s` and mismatch `m`: position `s` alone has odd weight, and position 0 beside it
changes the weight only. -/
def wordOf (s : Pos4) (m : Bool) : Word16 := if m then oneAt s else flipBit (oneAt s) 0#4

@[simp] theorem syndrome_wordOf (s : Pos4) (m : Bool) : syndrome (wordOf s m) = s := by
  revert s m; decide

@[simp] theorem parityMismatch_wordOf (s : Pos4) (m : Bool) : parityMismatch (wordOf s m) = m := by
  revert s m; decide

/-- What a word is XORed with to a valid codeword: any word of the same syndrome and mismatch. -/
theorem validCodeword_xor_wordOf (w : Word16) :
    validCodeword (w ^^^ wordOf (syndrome w) (parityMismatch w)) = true := by
  have even : parityMismatch (w ^^^ wordOf (syndrome w) (parityMismatch w)) =
      (parityMismatch w ^^ parityMismatch (wordOf (syndrome w) (parityMismatch w))) := xorbits_xor _ _
  rw [validCodeword_iff_syndrome, even, parityMismatch_wordOf, syndrome_xor, syndrome_wordOf]
  exact ⟨BitVec.xor_self, Bool.xor_self _⟩

/-- A word is its syndrome, its mismatch, and the payload of the valid codeword they single out. -/
def wordEquiv : Word16 ≃ (Pos4 × Bool) × Payload where
  toFun w := ((syndrome w, parityMismatch w),
    unpack (w ^^^ wordOf (syndrome w) (parityMismatch w)))
  invFun x := encode (pack x.2) ^^^ wordOf x.1.1 x.1.2
  left_inv w := by
    have codeword := (validCodeword_and_unpack_iff _ _).mp ⟨validCodeword_xor_wordOf w, rfl⟩
    simp only [← codeword, BitVec.xor_assoc, BitVec.xor_self, BitVec.xor_zero]
  right_inv := by
    rintro ⟨⟨s, m⟩, d⟩
    obtain ⟨valid, payload⟩ := (validCodeword_and_unpack_iff _ d).mpr rfl
    simp only [syndrome_validCodeword_xor valid, parityMismatch_validCodeword_xor valid,
      syndrome_wordOf, parityMismatch_wordOf, BitVec.xor_assoc, BitVec.xor_self, BitVec.xor_zero,
      payload]

theorem card_payload : Nat.card Payload = 2048 := by
  rw [Nat.card_congr BitVec.equivFin.toEquiv, Nat.card_fin]
  rfl

/-- Each pair of syndrome and mismatch has one word per payload, so a property of the result is counted on
the 32 pairs. -/
theorem card_locateError (P : LocationResult → Prop) :
    Nat.card { w : Word16 // P (locateError w) } =
      Nat.card { x : Pos4 × Bool // P (locate x.1 x.2) } * 2048 := by
  have pairs : { w : Word16 // P (locateError w) } ≃
      { x : Pos4 × Bool // P (locate x.1 x.2) } × Payload :=
    (wordEquiv.subtypeEquiv fun _ => Iff.rfl).trans
      (Equiv.prodSubtypeFstEquivSubtypeProd (p := fun x : Pos4 × Bool => P (locate x.1 x.2)))
  rw [Nat.card_congr pairs, Nat.card_prod, card_payload]

/-! ### The observable status words (R27) -/

/-- The status word of a syndrome and a mismatch. -/
def statusOf (s : Pos4) (m : Bool) : StatusWord :=
  packStatus m s (posCode (locate s m)) (resCode (locate s m))

theorem status_eq_statusOf (w : Word16) : status w = statusOf (syndrome w) (parityMismatch w) := rfl

theorem statusLegal_statusOf (s : Pos4) (m : Bool) : StatusLegal (statusOf s m) := by
  rw [StatusLegal, statusOf, stRes_packStatus, stPos_packStatus, stSyn_packStatus, stPerr_packStatus]
  exact ⟨rfl, rfl⟩

theorem eq_statusOf_of_statusLegal {v : StatusWord} (h : StatusLegal v) :
    v = statusOf (stSyn v) (stPerr v) := by
  obtain ⟨hres, hpos⟩ := h
  rw [statusOf, ← hres, ← hpos, packStatus_fields]

theorem statusLegal_iff_exists_status (v : StatusWord) :
    StatusLegal v ↔ ∃ w : Word16, status w = v := by
  refine ⟨fun h => ⟨wordOf (stSyn v) (stPerr v), ?_⟩, fun ⟨w, hw⟩ => hw ▸ statusLegal_status w⟩
  rw [status_eq_statusOf, syndrome_wordOf, parityMismatch_wordOf, ← eq_statusOf_of_statusLegal h]

/-- A legal status word is its syndrome and its mismatch. -/
def statusEquiv : { v : StatusWord // StatusLegal v } ≃ Pos4 × Bool where
  toFun v := (stSyn v.1, stPerr v.1)
  invFun x := ⟨statusOf x.1 x.2, statusLegal_statusOf x.1 x.2⟩
  left_inv v := Subtype.ext (eq_statusOf_of_statusLegal v.2).symm
  right_inv _ := Prod.ext (stSyn_packStatus _ _ _ _) (stPerr_packStatus _ _ _ _)

theorem card_statusLegal : Nat.card { v : StatusWord // StatusLegal v } = 32 := by
  rw [Nat.card_congr statusEquiv, Nat.card_eq_fintype_card]
  rfl

/-- The classes of a legal status word, and the position each shows. -/
theorem fields_of_statusLegal {v : StatusWord} (h : StatusLegal v) :
    stRes v ≠ 0b11#2 ∧ (stRes v ≠ 0b01#2 → stPos v = 0#4) ∧
      (stRes v = 0b01#2 → stPos v = stSyn v) := by
  obtain ⟨hres, hpos⟩ := h
  rw [hres, hpos]
  obtain ⟨-, -, hr⟩ | ⟨-, hr⟩ | ⟨-, -, hr⟩ := locate_cases (stSyn v) (stPerr v)
  · rw [hr]; exact ⟨by decide, fun _ => rfl, fun other => absurd other (by decide)⟩
  · rw [hr]; exact ⟨by rw [resCode]; decide, fun other => absurd rfl other, fun _ => rfl⟩
  · rw [hr]; exact ⟨by decide, fun _ => rfl, fun other => absurd other (by decide)⟩

/-! ### Patterns of odd and of even weight, and where `correct` lands (R92, R93) -/

theorem locateError_of_weight_odd {e : Word16} (h : weight e % 2 = 1) :
    locateError e = .bitPosition (syndrome e) :=
  (locateError_eq_bitPosition_iff e _).mpr ⟨parityMismatch_eq_true_of_weight_odd h, rfl⟩

theorem locateError_of_weight_even {e : Word16} (h : weight e % 2 = 0)
    (invalid : validCodeword e = false) : locateError e = .multipleErrors := by
  refine (locateError_eq_multipleErrors_iff e).mpr
    ⟨fun zero => ?_, parityMismatch_eq_false_of_weight_even h⟩
  rw [(syndrome_eq_zero_iff_of_weight_even h).mp zero] at invalid
  cases invalid

/-- Where `correct` flips a bit it gives a valid codeword (R93). -/
theorem validCodeword_correct_of_bitPosition {w : Word16} {p : Pos4}
    (h : locateError w = .bitPosition p) : validCodeword (correct w) = true :=
  (validCodeword_iff_noError _).mpr (locateError_correct_of_bitPosition h)

/-- Flipping one bit back restores the codeword only if that bit was the whole pattern. -/
theorem eq_oneAt_of_flipBit_xor_eq {c e : Word16} {p : Pos4} (h : flipBit (c ^^^ e) p = c) :
    e = oneAt p := by
  have undone : c ^^^ e = c ^^^ oneAt p := by
    rw [← flipBit_flipBit (c ^^^ e) p, h, flipBit]
  exact (BitVec.xor_right_inj c).mp undone

/-- A valid codeword at distance one from a word is what `correct` gives. -/
theorem eq_correct_of_weight_xor_eq_one {w c : Word16} (valid : validCodeword c = true)
    (distance : weight (w ^^^ c) = 1) : c = correct w := by
  have received : ReceivedWithFlips c w 1 := ⟨valid, by rw [BitVec.xor_comm, distance]⟩
  obtain ⟨restored, -⟩ := correct_of_receivedWithFlips_le_one (.inr received)
  exact restored.symm

/-! ### The units (R81, R97) -/

/-- A position is its four bits, the highest first. -/
theorem append_bits_eq (x : Pos4) : BitVec.ofBool (x.getLsbD 3) ++ BitVec.ofBool (x.getLsbD 2) ++
    BitVec.ofBool (x.getLsbD 1) ++ BitVec.ofBool (x.getLsbD 0) = x := by
  revert x; decide

/-- The XOR trees of SYN are the bits of the syndrome (R77). -/
theorem synOut_synUnit (w : Word16) : (synUnit w).synOut = syndrome w := by
  obtain ⟨tree0, tree1, tree2, tree3⟩ := syndrome_trees w
  rw [synUnit, ← tree0, ← tree1, ← tree2, ← tree3]
  exact append_bits_eq (syndrome w)

theorem perrOut_synUnit (w : Word16) : (synUnit w).perrOut = parityMismatch w := by
  rw [synUnit, parityMismatch]

/-- ELC inverts bit `elc_syn` exactly where `locateError` is BitPosition. -/
theorem elcOut_elcUnit (w : Word16) :
    (elcUnit w (syndrome w) (parityMismatch w)).elcOut = correct w := by
  obtain ⟨-, hm, hr⟩ | ⟨hm, hr⟩ | ⟨-, hm, hr⟩ := locateError_cases w
  · rw [hm, correct_of_noError hr]; rfl
  · rw [hm, correct_of_bitPosition hr]; rfl
  · rw [hm, correct_of_multipleErrors hr]; rfl

theorem elcOut_elcOfW (s : State) : (elcOfW s).elcOut = correct s.w := by
  rw [elcOfW, State.readW_eq, synOut_synUnit, perrOut_synUnit, elcOut_elcUnit]

theorem unitStatus_eq_status (s : State) : unitStatus s = status s.w := by
  rw [unitStatus, elcOfW, State.readW_eq, synOut_synUnit, perrOut_synUnit]
  rfl

end Sys2Proof.Machine

namespace Sys2Proof.Proofs

open Sys2Proof Sys2Proof.Machine

/-- Settles O33: 2048 words for each of the 32 pairs of syndrome and mismatch, of which 1, 1 per position,
16 and 15 give the results. -/
theorem locateCounts : Obligations.LocateCounts := by
  have noError : Nat.card { x : Pos4 × Bool // locate x.1 x.2 = .noError } = 1 := by
    rw [Nat.card_eq_fintype_card]; decide
  have oneBit : ∀ p : Pos4, Nat.card { x : Pos4 × Bool // locate x.1 x.2 = .bitPosition p } = 1 := by
    intro p
    rw [Nat.card_eq_fintype_card]
    revert p; decide
  have anyBit : Nat.card { x : Pos4 × Bool // ∃ p, locate x.1 x.2 = .bitPosition p } = 16 := by
    rw [Nat.card_eq_fintype_card]; decide
  have multiple : Nat.card { x : Pos4 × Bool // locate x.1 x.2 = .multipleErrors } = 15 := by
    rw [Nat.card_eq_fintype_card]; decide
  refine ⟨?_, fun p => ?_, ?_, ?_⟩
  · rw [card_locateError (· = .noError), noError]
  · rw [card_locateError (· = .bitPosition p), oneBit p]
  · rw [card_locateError (∃ p, · = .bitPosition p), anyBit]
  · rw [card_locateError (· = .multipleErrors), multiple]

/-- Settles O36: two flips cancel in the parity and not in the syndrome, and `correct` passes the word
through. -/
theorem doubleErrorsAreDetected : Obligations.DoubleErrorsAreDetected := fun _ _ _ valid differ =>
  have detected := locateError_flipBit_flipBit_of_validCodeword valid differ
  ⟨detected, correct_of_multipleErrors detected⟩

/-- Settles O37: the result is that of the pattern; an odd pattern is taken for one flip, which it is
not. -/
theorem threeOrMoreErrorsAreBeyondTheCode : Obligations.ThreeOrMoreErrorsAreBeyondTheCode := by
  intro c e valid three
  rw [locateError_validCodeword_xor valid]
  refine ⟨fun odd => ?_, fun _ => locateError_of_validCodeword, locateError_of_weight_even⟩
  have located : locateError (c ^^^ e) = .bitPosition (syndrome e) := by
    rw [locateError_validCodeword_xor valid, locateError_of_weight_odd odd]
  refine ⟨locateError_of_weight_odd odd, validCodeword_correct_of_bitPosition located, fun same => ?_⟩
  rw [correct_of_bitPosition located] at same
  rw [eq_oneAt_of_flipBit_xor_eq same, weight_oneAt] at three
  exact absurd three (by decide)

/-- Settles O38: no located bit is left after `correct`, and a valid codeword at distance one is one flip
away. -/
theorem correctIsIdempotent : Obligations.CorrectIsIdempotent := by
  refine ⟨correct_correct, locateError_correct, fun w p h => ⟨validCodeword_correct_of_bitPosition h,
    fun _ => eq_correct_of_weight_xor_eq_one⟩, fun w unlocated => ?_⟩
  obtain ⟨-, -, hr⟩ | ⟨-, hr⟩ | ⟨-, -, hr⟩ := locateError_cases w
  · exact correct_of_noError hr
  · exact absurd hr (unlocated _)
  · exact correct_of_multipleErrors hr

/-- Settles O42: a legal status word is the status of any word with its syndrome and mismatch, and these
two determine it. -/
theorem legalStatusPatterns : Obligations.LegalStatusPatterns :=
  ⟨statusLegal_iff_exists_status, card_statusLegal, fun _ => fields_of_statusLegal,
    readLocation_status⟩

/-- Settles O43: SYN's trees are the bits of the syndrome, ELC decides as `correct` does, and the commands
write `encode`, `status` and `correct` of `W`. -/
theorem unitsImplementTheCommands : Obligations.UnitsImplementTheCommands := by
  refine ⟨fun w => ⟨synOut_synUnit w, perrOut_synUnit w⟩, elcOut_elcUnit, fun imm s => ?_⟩
  rw [elcOut_elcOfW, unitStatus_eq_status]
  exact ⟨exec_encode imm s, exec_locate imm s, exec_correct imm s⟩

end Sys2Proof.Proofs
end

section
/-! PROOFS. The assembler: which source commands assemble, to what, and four lines of text
(spec/30_encoding.md R55, R56). -/

namespace Sys2Proof.Machine

section
variable (w : Word16)

theorem assemble_load_of_lt {v : Nat} (h : v < 65536) :
    assemble w (.load v) = .ok (.load (BitVec.ofNat 16 v)) := if_pos h

theorem assemble_load_of_le {v : Nat} (h : 65536 ≤ v) :
    assemble w (.load v) = .error (.operandTooWide v) := if_neg (Nat.not_lt.mpr h)

theorem assemble_loadp_of_lt {d : Nat} (h : d < 2048) :
    assemble w (.loadp d) = .ok (.load (pack (BitVec.ofNat 11 d))) := if_pos h

theorem assemble_loadp_of_le {d : Nat} (h : 2048 ≤ d) :
    assemble w (.loadp d) = .error (.payloadTooWide d) := if_neg (Nat.not_lt.mpr h)

theorem assemble_loads_of_lt {p : Nat} (h : p < 16) :
    assemble w (.loads p) = .ok (.load (1#16 <<< p)) := by
  rw [assemble, singletonWord_of_lt h]

theorem assemble_loads_of_le {p : Nat} (h : 16 ≤ p) :
    assemble w (.loads p) = .error (.invalidPosition p) := by
  rw [assemble, singletonWord_of_le h]

/-- A source command that passes its check assembles to a canonical command (R55, R56). -/
theorem assemble_of_wellFormed {c : AsmCommand} (h : c.wellFormed = true) :
    ∃ i : Instr, assemble w c = .ok i ∧ i.canonical = true := by
  cases c with
  | load v => exact ⟨_, assemble_load_of_lt w (of_decide_eq_true h), rfl⟩
  | encode => exact ⟨.encode 0#16, rfl, rfl⟩
  | locate => exact ⟨.locate 0#16, rfl, rfl⟩
  | correct => exact ⟨.correct 0#16, rfl, rfl⟩
  | flip p => exact ⟨_, assemble_flip_of_lt w (of_decide_eq_true h), rfl⟩
  | loadp d => exact ⟨_, assemble_loadp_of_lt w (of_decide_eq_true h), rfl⟩
  | loads p => exact ⟨_, assemble_loads_of_lt w (of_decide_eq_true h), rfl⟩

/-- A source command that fails its check is refused (R55, R56). -/
theorem assemble_of_not_wellFormed {c : AsmCommand} (h : c.wellFormed = false) :
    ∃ e : HostError, assemble w c = .error e := by
  cases c with
  | load v => exact ⟨_, assemble_load_of_le w (Nat.not_lt.mp (of_decide_eq_false h))⟩
  | encode => cases h
  | locate => cases h
  | correct => cases h
  | flip p => exact ⟨_, assemble_flip_of_le w (Nat.not_lt.mp (of_decide_eq_false h))⟩
  | loadp d => exact ⟨_, assemble_loadp_of_le w (Nat.not_lt.mp (of_decide_eq_false h))⟩
  | loads p => exact ⟨_, assemble_loads_of_le w (Nat.not_lt.mp (of_decide_eq_false h))⟩

theorem wellFormed_of_assemble {c : AsmCommand} {i : Instr} (h : assemble w c = .ok i) :
    c.wellFormed = true := by
  by_contra refused
  obtain ⟨e, he⟩ := assemble_of_not_wellFormed w (Bool.eq_false_iff.mpr refused)
  rw [he] at h
  cases h

/-- A line that reads as a command with an operand that passes has that command's word. -/
theorem assembleLine_of_readLine {line : List Char} {c : AsmCommand} {i : Instr}
    (reads : readLine line = .ok (some c)) (assembles : assemble w c = .ok i) :
    assembleLine w line = .ok (some (encodeCmd i)) := by
  rw [assembleLine, reads]
  simp only [assembles]

end

theorem encodeCmd_load_ofNat {v : Nat} (h : v < 65536) :
    encodeCmd (.load (BitVec.ofNat 16 v)) = BitVec.ofNat 18 v := by
  rw [encodeCmd_load, BitVec.setWidth_ofNat_of_le_of_lt (by decide) h]

end Sys2Proof.Machine

namespace Sys2Proof.Proofs

open Sys2Proof Sys2Proof.Machine

/-- Settles O52: each pseudo-command checks its operand and becomes one LOAD. -/
theorem pseudoCommandExpansions : Obligations.PseudoCommandExpansions :=
  ⟨fun w _ => assemble_flip_of_lt w, fun w _ => assemble_flip_of_le w,
    fun w _ => assemble_loadp_of_lt w, fun w _ => assemble_loadp_of_le w,
    fun w _ => assemble_loads_of_lt w, fun w _ => assemble_loads_of_le w⟩

/-- Settles O53: the operand check decides each source command, and the four lines are read token by
token. -/
theorem assembledWords : Obligations.AssembledWords := by
  refine ⟨fun w v h => ⟨assemble_load_of_lt w h, encodeCmd_load_ofNat h⟩,
    fun w v => assemble_load_of_le w, fun w => ⟨?_, ?_, ?_, ?_⟩, fun w c => ⟨fun h => ?_, ?_⟩,
    fun w c i h => ?_⟩
  · exact assembleLine_of_readLine w (c := .encode) rfl rfl
  · exact assembleLine_of_readLine w (c := .locate) rfl rfl
  · exact assembleLine_of_readLine w (c := .correct) rfl rfl
  · exact assembleLine_of_readLine w (c := .load 0x0AAA) rfl (assemble_load_of_lt w (by decide))
  · obtain ⟨i, hi, -⟩ := assemble_of_wellFormed w h
    exact ⟨i, hi⟩
  · rintro ⟨i, hi⟩
    exact wellFormed_of_assemble w hi
  · obtain ⟨j, hj, canonical⟩ := assemble_of_wellFormed w (wellFormed_of_assemble w h)
    obtain rfl : j = i := Except.ok.inj (hj.symm.trans h)
    exact canonical

end Sys2Proof.Proofs
end
